-- ==== Sys2Proof/Word.lean ====
section
/-! DEFINITION. Sys2Proof/Word.lean: the widths the spec gives its quantities (00_scope.md R8, R10). All of them are
unsigned; the ISA has no signed quantity (R10). -/

namespace Sys2Proof

/-- A register index: a 4-bit instruction field, always in 0 to 15 (10_state.md R22). Also the sprite height `n`. -/
abbrev Nibble := BitVec 4

/-- A general register, a memory cell, a timer, an immediate `kk` (00_scope.md R8). -/
abbrev Byte := BitVec 8

/-- The 12-bit immediate `nnn` (00_scope.md R11). -/
abbrev Imm12 := BitVec 12

/-- An instruction word, `I`, `pc`, a stack entry (00_scope.md R8). -/
abbrev Word := BitVec 16

/-- The 64 by 32 grid of one-bit pixels (10_state.md R35): 32 rows, row 0 first, and in a row of 64 bits the pixel of column
`x` is bit `x` (log 10). -/
abbrev Grid := Vector (BitVec 64) 32

end Sys2Proof
end

