-- ==== Sys2Proof/Syntax.lean ====
section
/-! DEFINITION. Sys2Proof/Syntax.lean: the 35 instructions of 30_encoding.md R94, in the row order of the opcode map, with
the operand fields of R92. The names are those of R102 in lower camel case (OR, AND, XOR carry their operands in the name). -/

namespace Sys2Proof

inductive Instr where
  /-- 00E0, `CLS` (R220) -/
  | cls
  /-- 00EE, `RET` (R144) -/
  | ret
  /-- 0nnn, `SYS nnn` (R141); `nnn` is neither 0x0E0 nor 0x0EE (R93) -/
  | sys (nnn : Imm12)
  /-- 1nnn, `JP nnn` (R142) -/
  | jp (nnn : Imm12)
  /-- 2nnn, `CALL nnn` (R143) -/
  | call (nnn : Imm12)
  /-- 3xkk, `SE Vx, kk` (R146) -/
  | seVxKk (x : Nibble) (kk : Byte)
  /-- 4xkk, `SNE Vx, kk` (R147) -/
  | sneVxKk (x : Nibble) (kk : Byte)
  /-- 5xy0, `SE Vx, Vy` (R148) -/
  | seVxVy (x y : Nibble)
  /-- 6xkk, `LD Vx, kk` (R170) -/
  | ldVxKk (x : Nibble) (kk : Byte)
  /-- 7xkk, `ADD Vx, kk` (R171) -/
  | addVxKk (x : Nibble) (kk : Byte)
  /-- 8xy0, `LD Vx, Vy` (R172) -/
  | ldVxVy (x y : Nibble)
  /-- 8xy1, `OR Vx, Vy` (R173) -/
  | orVxVy (x y : Nibble)
  /-- 8xy2, `AND Vx, Vy` (R174) -/
  | andVxVy (x y : Nibble)
  /-- 8xy3, `XOR Vx, Vy` (R175) -/
  | xorVxVy (x y : Nibble)
  /-- 8xy4, `ADD Vx, Vy` (R176) -/
  | addVxVy (x y : Nibble)
  /-- 8xy5, `SUB Vx, Vy` (R177) -/
  | sub (x y : Nibble)
  /-- 8xy6, `SHR Vx` (R178); the `y` field is kept and ignored (R98) -/
  | shr (x y : Nibble)
  /-- 8xy7, `SUBN Vx, Vy` (R179) -/
  | subn (x y : Nibble)
  /-- 8xyE, `SHL Vx` (R180); the `y` field is kept and ignored (R98) -/
  | shl (x y : Nibble)
  /-- 9xy0, `SNE Vx, Vy` (R149) -/
  | sneVxVy (x y : Nibble)
  /-- Annn, `LD I, nnn` (R200) -/
  | ldINnn (nnn : Imm12)
  /-- Bnnn, `JP V0, nnn` (R145) -/
  | jpV0 (nnn : Imm12)
  /-- Cxkk, `RND Vx, kk` (R181) -/
  | rnd (x : Nibble) (kk : Byte)
  /-- Dxyn, `DRW Vx, Vy, n` (R222) -/
  | drw (x y n : Nibble)
  /-- Ex9E, `SKP Vx` (R243) -/
  | skp (x : Nibble)
  /-- ExA1, `SKNP Vx` (R244) -/
  | sknp (x : Nibble)
  /-- Fx07, `LD Vx, DT` (R240) -/
  | ldVxDt (x : Nibble)
  /-- Fx0A, `LD Vx, K` (R246) -/
  | ldVxK (x : Nibble)
  /-- Fx15, `LD DT, Vx` (R241) -/
  | ldDtVx (x : Nibble)
  /-- Fx18, `LD ST, Vx` (R242) -/
  | ldStVx (x : Nibble)
  /-- Fx1E, `ADD I, Vx` (R201) -/
  | addIVx (x : Nibble)
  /-- Fx29, `LD F, Vx` (R202) -/
  | ldFVx (x : Nibble)
  /-- Fx33, `LD B, Vx` (R203) -/
  | ldBVx (x : Nibble)
  /-- Fx55, `LD [I], Vx` (R205) -/
  | ldMemVx (x : Nibble)
  /-- Fx65, `LD Vx, [I]` (R206) -/
  | ldVxMem (x : Nibble)
  deriving DecidableEq, Repr

end Sys2Proof
end

