-- ==== Sys2Proof/Decode.lean ====
section
/-! DEFINITION. Sys2Proof/Decode.lean: the decoder of 30_encoding.md R93 to R96, written from the nibble decoder R95; the
encoder, written from the patterns of R94; and the match and mask columns of R94, against which both are held. -/

namespace Sys2Proof

/-! ## The fields of an instruction word (00_scope.md R11, 40_fetch_decode_cycle.md R125) -/

/-- nibble 1, the major opcode: bits 15:12 -/
def fieldOp (w : Word) : Nibble := w.extractLsb' 12 4

/-- nibble 2: bits 11:8 -/
def fieldX (w : Word) : Nibble := w.extractLsb' 8 4

/-- nibble 3: bits 7:4 -/
def fieldY (w : Word) : Nibble := w.extractLsb' 4 4

/-- nibble 4: bits 3:0 -/
def fieldN (w : Word) : Nibble := w.extractLsb' 0 4

/-- the low byte: bits 7:0 -/
def fieldKk (w : Word) : Byte := w.extractLsb' 0 8

/-- the low 12 bits: bits 11:0 -/
def fieldNnn (w : Word) : Imm12 := w.extractLsb' 0 12

/-! ## Decode -/

/-- Major opcode 0: 00E0 and 00EE are matched before 0nnn (R93). -/
def decodeSys (w : Word) : Instr :=
  if w = 0x00E0#16 then .cls else if w = 0x00EE#16 then .ret else .sys (fieldNnn w)

/-- Major opcode 8: the sub-opcode is nibble 4; 8, 9, A, B, C, D and F are invalid (R95, R96). -/
def decodeAlu (x y n : Nibble) : Option Instr :=
  if n = 0x0#4 then some (.ldVxVy x y)
  else if n = 0x1#4 then some (.orVxVy x y)
  else if n = 0x2#4 then some (.andVxVy x y)
  else if n = 0x3#4 then some (.xorVxVy x y)
  else if n = 0x4#4 then some (.addVxVy x y)
  else if n = 0x5#4 then some (.sub x y)
  else if n = 0x6#4 then some (.shr x y)
  else if n = 0x7#4 then some (.subn x y)
  else if n = 0xE#4 then some (.shl x y)
  else none

/-- Major opcode E: the sub-opcode is the low byte (R95, R96). -/
def decodeKey (x : Nibble) (kk : Byte) : Option Instr :=
  if kk = 0x9E#8 then some (.skp x)
  else if kk = 0xA1#8 then some (.sknp x)
  else none

/-- Major opcode F: the sub-opcode is the low byte (R95, R96). -/
def decodeMisc (x : Nibble) (kk : Byte) : Option Instr :=
  if kk = 0x07#8 then some (.ldVxDt x)
  else if kk = 0x0A#8 then some (.ldVxK x)
  else if kk = 0x15#8 then some (.ldDtVx x)
  else if kk = 0x18#8 then some (.ldStVx x)
  else if kk = 0x1E#8 then some (.addIVx x)
  else if kk = 0x29#8 then some (.ldFVx x)
  else if kk = 0x33#8 then some (.ldBVx x)
  else if kk = 0x55#8 then some (.ldMemVx x)
  else if kk = 0x65#8 then some (.ldVxMem x)
  else none

/-- Decode (R93, R95): a function of the word alone. `none` is INVALID, the words of R96. -/
def decode (w : Word) : Option Instr :=
  let op := fieldOp w
  let x := fieldX w
  let y := fieldY w
  let n := fieldN w
  let kk := fieldKk w
  let nnn := fieldNnn w
  if op = 0x0#4 then some (decodeSys w)
  else if op = 0x1#4 then some (.jp nnn)
  else if op = 0x2#4 then some (.call nnn)
  else if op = 0x3#4 then some (.seVxKk x kk)
  else if op = 0x4#4 then some (.sneVxKk x kk)
  else if op = 0x5#4 then (if n = 0x0#4 then some (.seVxVy x y) else none)
  else if op = 0x6#4 then some (.ldVxKk x kk)
  else if op = 0x7#4 then some (.addVxKk x kk)
  else if op = 0x8#4 then decodeAlu x y n
  else if op = 0x9#4 then (if n = 0x0#4 then some (.sneVxVy x y) else none)
  else if op = 0xA#4 then some (.ldINnn nnn)
  else if op = 0xB#4 then some (.jpV0 nnn)
  else if op = 0xC#4 then some (.rnd x kk)
  else if op = 0xD#4 then some (.drw x y n)
  else if op = 0xE#4 then decodeKey x kk
  else decodeMisc x kk

/-- What decoding a run of bytes gives: an instruction and the bytes after it, or a rejection by name. -/
inductive Decoded where
  /-- one of the 35 instructions, and the bytes after it -/
  | instr (i : Instr) (rest : List Byte)
  /-- the first two bytes are one of the invalid words of R96; the raw word is kept because the error reports it (R105) -/
  | invalidInstruction (w : Word)
  /-- fewer than the two bytes every instruction has (R90) -/
  | truncated
  deriving DecidableEq, Repr

/-- The word two fetched bytes make: big-endian, the byte at the lower address is the high byte (20_memory.md R64). -/
def wordOfBytes (hi lo : Byte) : Word := hi ++ lo

/-- The byte of a word that lies at the lower address (20_memory.md R64). -/
def highByte (w : Word) : Byte := w.extractLsb' 8 8

/-- The byte of a word that lies at the higher address (20_memory.md R64). -/
def lowByte (w : Word) : Byte := w.extractLsb' 0 8

/-- Decode the first instruction of a run of bytes. Total. -/
def decodeBytes : List Byte → Decoded
  | hi :: lo :: rest =>
    match decode (wordOfBytes hi lo) with
    | some i => .instr i rest
    | none => .invalidInstruction (wordOfBytes hi lo)
  | [_] => .truncated
  | [] => .truncated

/-- A word as memory holds it: high byte first (20_memory.md R64). -/
def bytesOfWord (w : Word) : List Byte := [highByte w, lowByte w]

/-- The instruction the decoder reads from a row of spec/opcode_table.json whose bits are `w`. Every row has 16 bits, one
word; bits above `nbits` are 0. -/
def decodeTableWord (nbits w : Nat) : Option Instr :=
  match decodeBytes (bytesOfWord (BitVec.ofNat 16 (w % 2 ^ nbits))) with
  | .instr i _ => some i
  | .invalidInstruction _ => none
  | .truncated => none

/-! ## Encode -/

/-- The word of an instruction: the pattern column of R94, the fields at the places of R91. -/
def encode : Instr → Word
  | .cls => 0x00E0#16
  | .ret => 0x00EE#16
  | .sys nnn => 0x0#4 ++ nnn
  | .jp nnn => 0x1#4 ++ nnn
  | .call nnn => 0x2#4 ++ nnn
  | .seVxKk x kk => 0x3#4 ++ x ++ kk
  | .sneVxKk x kk => 0x4#4 ++ x ++ kk
  | .seVxVy x y => 0x5#4 ++ x ++ y ++ 0x0#4
  | .ldVxKk x kk => 0x6#4 ++ x ++ kk
  | .addVxKk x kk => 0x7#4 ++ x ++ kk
  | .ldVxVy x y => 0x8#4 ++ x ++ y ++ 0x0#4
  | .orVxVy x y => 0x8#4 ++ x ++ y ++ 0x1#4
  | .andVxVy x y => 0x8#4 ++ x ++ y ++ 0x2#4
  | .xorVxVy x y => 0x8#4 ++ x ++ y ++ 0x3#4
  | .addVxVy x y => 0x8#4 ++ x ++ y ++ 0x4#4
  | .sub x y => 0x8#4 ++ x ++ y ++ 0x5#4
  | .shr x y => 0x8#4 ++ x ++ y ++ 0x6#4
  | .subn x y => 0x8#4 ++ x ++ y ++ 0x7#4
  | .shl x y => 0x8#4 ++ x ++ y ++ 0xE#4
  | .sneVxVy x y => 0x9#4 ++ x ++ y ++ 0x0#4
  | .ldINnn nnn => 0xA#4 ++ nnn
  | .jpV0 nnn => 0xB#4 ++ nnn
  | .rnd x kk => 0xC#4 ++ x ++ kk
  | .drw x y n => 0xD#4 ++ x ++ y ++ n
  | .skp x => 0xE#4 ++ x ++ 0x9E#8
  | .sknp x => 0xE#4 ++ x ++ 0xA1#8
  | .ldVxDt x => 0xF#4 ++ x ++ 0x07#8
  | .ldVxK x => 0xF#4 ++ x ++ 0x0A#8
  | .ldDtVx x => 0xF#4 ++ x ++ 0x15#8
  | .ldStVx x => 0xF#4 ++ x ++ 0x18#8
  | .addIVx x => 0xF#4 ++ x ++ 0x1E#8
  | .ldFVx x => 0xF#4 ++ x ++ 0x29#8
  | .ldBVx x => 0xF#4 ++ x ++ 0x33#8
  | .ldMemVx x => 0xF#4 ++ x ++ 0x55#8
  | .ldVxMem x => 0xF#4 ++ x ++ 0x65#8

/-- The match column of R94. -/
def Instr.pattern : Instr → Word
  | .cls => 0x00E0#16
  | .ret => 0x00EE#16
  | .sys _ => 0x0000#16
  | .jp _ => 0x1000#16
  | .call _ => 0x2000#16
  | .seVxKk _ _ => 0x3000#16
  | .sneVxKk _ _ => 0x4000#16
  | .seVxVy _ _ => 0x5000#16
  | .ldVxKk _ _ => 0x6000#16
  | .addVxKk _ _ => 0x7000#16
  | .ldVxVy _ _ => 0x8000#16
  | .orVxVy _ _ => 0x8001#16
  | .andVxVy _ _ => 0x8002#16
  | .xorVxVy _ _ => 0x8003#16
  | .addVxVy _ _ => 0x8004#16
  | .sub _ _ => 0x8005#16
  | .shr _ _ => 0x8006#16
  | .subn _ _ => 0x8007#16
  | .shl _ _ => 0x800E#16
  | .sneVxVy _ _ => 0x9000#16
  | .ldINnn _ => 0xA000#16
  | .jpV0 _ => 0xB000#16
  | .rnd _ _ => 0xC000#16
  | .drw _ _ _ => 0xD000#16
  | .skp _ => 0xE09E#16
  | .sknp _ => 0xE0A1#16
  | .ldVxDt _ => 0xF007#16
  | .ldVxK _ => 0xF00A#16
  | .ldDtVx _ => 0xF015#16
  | .ldStVx _ => 0xF018#16
  | .addIVx _ => 0xF01E#16
  | .ldFVx _ => 0xF029#16
  | .ldBVx _ => 0xF033#16
  | .ldMemVx _ => 0xF055#16
  | .ldVxMem _ => 0xF065#16

/-- The mask column of R94. -/
def Instr.mask : Instr → Word
  | .cls => 0xFFFF#16
  | .ret => 0xFFFF#16
  | .sys _ => 0xF000#16
  | .jp _ => 0xF000#16
  | .call _ => 0xF000#16
  | .seVxKk _ _ => 0xF000#16
  | .sneVxKk _ _ => 0xF000#16
  | .seVxVy _ _ => 0xF00F#16
  | .ldVxKk _ _ => 0xF000#16
  | .addVxKk _ _ => 0xF000#16
  | .ldVxVy _ _ => 0xF00F#16
  | .orVxVy _ _ => 0xF00F#16
  | .andVxVy _ _ => 0xF00F#16
  | .xorVxVy _ _ => 0xF00F#16
  | .addVxVy _ _ => 0xF00F#16
  | .sub _ _ => 0xF00F#16
  | .shr _ _ => 0xF00F#16
  | .subn _ _ => 0xF00F#16
  | .shl _ _ => 0xF00F#16
  | .sneVxVy _ _ => 0xF00F#16
  | .ldINnn _ => 0xF000#16
  | .jpV0 _ => 0xF000#16
  | .rnd _ _ => 0xF000#16
  | .drw _ _ _ => 0xF000#16
  | .skp _ => 0xF0FF#16
  | .sknp _ => 0xF0FF#16
  | .ldVxDt _ => 0xF0FF#16
  | .ldVxK _ => 0xF0FF#16
  | .ldDtVx _ => 0xF0FF#16
  | .ldStVx _ => 0xF0FF#16
  | .addIVx _ => 0xF0FF#16
  | .ldFVx _ => 0xF0FF#16
  | .ldBVx _ => 0xF0FF#16
  | .ldMemVx _ => 0xF0FF#16
  | .ldVxMem _ => 0xF0FF#16

end Sys2Proof
end

