-- ==== Sys2Proof/Config.lean ====
section
/-! DEFINITION. Sys2Proof/Config.lean: the parameters of 00_scope.md R8 and the FREE VALUES of the model: opaque constants
without a body, so that nothing can be proved of what they are. They are applied to the instruction-tick counter
`State.env.tick`, a fresh value for each tick. The log entries that name them: 1, 4, 5, 6, 7. -/

namespace Sys2Proof

/-- A host event that can come between two instruction ticks: the events of 40_fetch_decode_cycle.md R120 other than
`ITick`. A key release is no event of the block (60_exceptions.md R283). -/
inductive HostEvent where
  /-- `Reset` (70_reset_and_hazards.md R300, R301) -/
  | reset
  /-- `Load(bytes)` (70_reset_and_hazards.md R304) -/
  | load (bytes : List Byte)
  /-- `TTick` (60_exceptions.md R275) -/
  | timerTick
  /-- `KeyPress(k)`, `k` in 0 to 15 (60_exceptions.md R282) -/
  | keyPress (k : Nibble)
  deriving DecidableEq, Repr

namespace Config

/-- `MEM_SIZE` (00_scope.md R8) -/
def memSize : Nat := 4096

/-- `NUM_REGS` (00_scope.md R8); the type of `State.v` carries it. -/
def numRegs : Nat := 16

/-- `STACK_DEPTH` (00_scope.md R8, U19); the types of `State.stk` and `State.sp` carry it. -/
def stackDepth : Nat := 16

/-- `DISP_W` (00_scope.md R8) -/
def dispW : Nat := 64

/-- `DISP_H` (00_scope.md R8) -/
def dispH : Nat := 32

/-- `PROG_BASE`, the load address and the reset value of `pc` (00_scope.md R8, 70_reset_and_hazards.md R302) -/
def progBase : Nat := 0x200

/-- `FONT_BASE` (00_scope.md R8, U18) -/
def fontBase : Nat := 0x050

/-- `NUM_KEYS` (00_scope.md R8) -/
def numKeys : Nat := 16

/-- `TIMER_HZ`; no rule depends on a rate (00_scope.md R8, 70_reset_and_hazards.md R314). -/
def timerHz : Nat := 60

/-- `INSTR_HZ`, OPEN: the source fixes no value and no rule reads it (00_scope.md R8, D20). -/
opaque instrHz : Nat

/-- FREE VALUE: the random byte of an instruction tick (60_exceptions.md R284, U7; log 5). -/
opaque rnd : Nat → Byte

/-- FREE VALUE: the 16 key levels the host shows at an instruction tick (60_exceptions.md R281, U8; log 6). -/
opaque keys : Nat → BitVec 16

/-- FREE VALUE: the host events that arrive between one instruction tick and the next, in the order they come: any
number, any order (40_fetch_decode_cycle.md R131, U17; log 7). -/
opaque arrivals : Nat → List HostEvent

/-- FREE VALUE: what `IR` holds between instruction ticks (10_state.md R36, U9; log 1). -/
opaque idleIr : Nat → Word

/-- FREE VALUE: `FAULT.ir` after a fetch fault, "meaningless when the fetch itself failed" (10_state.md R38; log 4). -/
opaque noFaultIr : Nat → Word

/-- FREE VALUE: `FAULT.addr` of a fault other than `OutOfBounds`: "Fields not listed for a kind are unspecified"
(60_exceptions.md R265; log 4). -/
opaque noFaultAddr : Nat → Word

end Config

end Sys2Proof
end

