-- ==== Sys2Proof/Machine/State.lean ====
section
/-! DEFINITION. Sys2Proof/Machine/State.lean: the state record of 10_state.md R20, all of it, as plain data; the model's own
fields, kept apart in `Env`; the faults and refusals a step can stop with; the state after reset (10_state.md R41). -/

namespace Sys2Proof.Machine

/-- `MEM`: the bytes that differ from the reset contents, by rising address; what an unlisted address reads as is
`Memory.blank` of Machine/Ops.lean (20_memory.md R60, 10_state.md R41). -/
abbrev Memory := List Host.Cell

/-- `FAULT.kind` (10_state.md R38, 60_exceptions.md R260). -/
inductive FaultKind where
  /-- no fault -/
  | none
  /-- a fetch with `pc > 4094`, or a data byte address of 4096 or above -/
  | outOfBounds
  /-- the fetched word is none of the 35 instructions -/
  | invalidInstruction
  /-- 2nnn with `SP = 16` -/
  | stackOverflow
  /-- 00EE with `SP = 0` -/
  | stackUnderflow
  deriving DecidableEq, Repr

/-- `FAULT`, the fault record (10_state.md R38). Which fields a kind fills is 60_exceptions.md R265. -/
structure FaultRecord where
  /-- the kind; once not `none`, it stays until reset -/
  kind : FaultKind
  /-- the address the faulting instruction was, or was to be, fetched from -/
  pc0 : Word
  /-- the instruction word; meaningless when the fetch itself failed -/
  ir : Word
  /-- the offending byte address, for `outOfBounds` -/
  addr : Word
  deriving DecidableEq, Repr

/-- The model's own fields: what the host side of the block shows it. None of them is state the spec gives the machine. -/
structure Env where
  /-- the random byte input of the current instruction tick (60_exceptions.md R284; log 5) -/
  rnd : Byte
  /-- the key level inputs of the current instruction tick, bit `k` is key `k` (60_exceptions.md R281; log 6) -/
  keys : BitVec 16
  /-- how many instruction ticks have come: the index of the free values (log 7) -/
  tick : Nat
  /-- the host events that come before the next instruction tick, oldest first (40_fetch_decode_cycle.md R131; log 7) -/
  inbox : List HostEvent
  /-- an instruction tick has come since the last `Reset`, so `Load` is over (70_reset_and_hazards.md R305; log 11) -/
  started : Bool
  deriving DecidableEq, Repr

/-- The state of the block (10_state.md R20), field by field in the order of that table, and the model's own `env`. -/
structure State where
  /-- `V[0..15]`, the general registers (R21) -/
  v : Vector Byte 16
  /-- `I`, the index register (R24) -/
  i : Word
  /-- `pc`, the program counter (R25) -/
  pc : Word
  /-- `MEM[0..4095]` (R29) -/
  mem : Memory
  /-- `STK[0..15]`, the call stack (R30) -/
  stk : Vector Word 16
  /-- `SP`, the number of return addresses held, 0 to 16 (R30) -/
  sp : Fin 17
  /-- `DT`, the delay timer (R34) -/
  dt : Byte
  /-- `ST`, the sound timer (R34) -/
  st : Byte
  /-- `DISP[0..63][0..31]`, the display (R35) -/
  disp : Grid
  /-- `IR`, the most recently fetched word, transient (R36; log 1) -/
  ir : Word
  /-- `WAIT`, the core is suspended in an Fx0A (R37) -/
  wait : Bool
  /-- `WREG`, the register that will receive the key (R37) -/
  wreg : Nibble
  /-- `FAULT`, the fault record (R38) -/
  fault : FaultRecord
  /-- the model's own fields -/
  env : Env
  deriving DecidableEq, Repr

/-- Why the machine stops. Raised by an instruction tick given to a HALTED core, and by nothing else: the fault itself is a
next state that writes `State.fault`, and the tick after it stops with the record kept (60_exceptions.md R263; log 8). Each
is safe: the spec's core stays frozen from there until `Reset`. -/
inductive Fault where
  /-- halted by an out-of-bounds fetch or data access (R260 code 1); raised by an `ITick` on a halted core; safe -/
  | outOfBounds (pc0 ir addr : Word)
  /-- halted by an invalid instruction word `ir` (R260 code 2); raised by an `ITick` on a halted core; safe -/
  | invalidInstruction (pc0 ir : Word)
  /-- halted by a call on a full stack (R260 code 3); raised by an `ITick` on a halted core; safe -/
  | stackOverflow (pc0 ir : Word)
  /-- halted by a return on an empty stack (R260 code 4); raised by an `ITick` on a halted core; safe -/
  | stackUnderflow (pc0 ir : Word)
  deriving DecidableEq, Repr

/-- What the model gives no meaning. -/
inductive Refusal where
  /-- an instruction without a meaning yet; raised by no arm of `exec`; safe -/
  | notModelled (mnemonic : String)
  /-- the host sends `Load` after the first instruction tick, which "has no move in a model" (70_reset_and_hazards.md
  R305, U13); raised by a step that delivers such an event; safe -/
  | loadAfterStart
  deriving DecidableEq, Repr

/-- The state right after `Reset` (10_state.md R41). `IR`, `WREG` and the fields of `FAULT` beside its kind are unspecified
there and are 0 here (log 1, 2, 3); so are the model's own fields (log 5, 6, 7). -/
def State.reset : State where
  v := Vector.replicate 16 0
  i := 0
  pc := 0x200
  mem := []
  stk := Vector.replicate 16 0
  sp := 0
  dt := 0
  st := 0
  disp := Vector.replicate 32 0
  ir := 0
  wait := false
  wreg := 0
  fault := { kind := .none, pc0 := 0, ir := 0, addr := 0 }
  env := { rnd := 0, keys := 0, tick := 0, inbox := [], started := false }

end Sys2Proof.Machine
end

