-- ==== Sys2Proof/Machine/Ops.lean ====
section
/-! DEFINITION. Sys2Proof/Machine/Ops.lean: the named operations over memory, registers, stack, `pc` and the fault record.
Every instruction meaning and every event is written over these. -/

namespace Sys2Proof.Machine

/-! ## Memory (20_memory.md) -/

/-- `FONT_TABLE`: 16 glyphs of 5 bytes (20_memory.md R66). The bytes are the spec's passage U10 from general knowledge:
PRESUMED (log 9). -/
def fontTable : List Byte :=
  [0xF0, 0x90, 0x90, 0x90, 0xF0,
   0x20, 0x60, 0x20, 0x20, 0x70,
   0xF0, 0x10, 0xF0, 0x80, 0xF0,
   0xF0, 0x10, 0xF0, 0x10, 0xF0,
   0x90, 0x90, 0xF0, 0x10, 0x10,
   0xF0, 0x80, 0xF0, 0x10, 0xF0,
   0xF0, 0x80, 0xF0, 0x90, 0xF0,
   0xF0, 0x10, 0x20, 0x40, 0x40] ++
  [0xF0, 0x90, 0xF0, 0x90, 0xF0,
   0xF0, 0x90, 0xF0, 0x10, 0xF0,
   0xF0, 0x90, 0xF0, 0x90, 0x90,
   0xE0, 0x90, 0xE0, 0x90, 0xE0,
   0xF0, 0x80, 0x80, 0x80, 0xF0,
   0xE0, 0x90, 0x90, 0x90, 0xE0,
   0xF0, 0x80, 0xF0, 0x80, 0xF0,
   0xF0, 0x80, 0xF0, 0x80, 0x80]

/-- What an unlisted address reads as: its reset contents, the font at 0x050 to 0x09F and 0 elsewhere (10_state.md R41,
20_memory.md R66). -/
def Memory.blank (a : Nat) : Byte :=
  if Config.fontBase ≤ a then fontTable.getD (a - Config.fontBase) 0 else 0

/-- The byte at address `a` (`read_byte` without its bound check, 20_memory.md R60). -/
def Memory.read : Memory → Nat → Byte
  | [], a => Memory.blank a
  | (k, b) :: rest, a => if k = a then b else Memory.read rest a

/-- Place the byte `b` at address `a`, before the first cell of a higher address. -/
def Memory.place (a : Nat) (b : Byte) : Memory → Memory
  | [] => [(a, b)]
  | c :: rest => if a < c.1 then (a, b) :: c :: rest else c :: Memory.place a b rest

/-- `write_byte` without its bound check (20_memory.md R60). Writing what the address would read as unlisted removes its
cell, so that equal memories are equal lists. -/
def Memory.write (m : Memory) (a : Nat) (b : Byte) : Memory :=
  let others := m.filter (fun c => c.1 != a)
  if b = Memory.blank a then others else Memory.place a b others

/-- Write bytes at consecutive addresses from `a` upward. -/
def Memory.writeList (m : Memory) (a : Nat) : List Byte → Memory
  | [] => m
  | b :: bs => Memory.writeList (Memory.write m a b) (a + 1) bs

/-- Read `n` bytes at consecutive addresses from `a` upward. -/
def Memory.readList (m : Memory) (a : Nat) : Nat → List Byte
  | 0 => []
  | n + 1 => Memory.read m a :: Memory.readList m (a + 1) n

/-- The canonical form: addresses strictly rising and inside the space, no cell equal to what its address reads as
unlisted. -/
abbrev Memory.wf (m : Memory) : Prop :=
  m.Pairwise (fun c d => c.1 < d.1) ∧ ∀ c ∈ m, c.1 < Config.memSize ∧ c.2 ≠ Memory.blank c.1

/-- No byte address of the `n` bytes from `a` upward is 4096 or more (20_memory.md R62, 43_index_memory.md R204). The sum
is a natural number and never wraps (R63); an access of no byte is always in bounds (44_display.md R224). -/
def inBounds (a n : Nat) : Bool := n == 0 || decide (a + n ≤ Config.memSize)

/-! ## Registers: the pseudocode primitives of 00_scope.md R12 -/

/-- `V[r]` -/
def State.reg (s : State) (r : Nibble) : Byte := s.v[r.toNat]'r.isLt

/-- `V[r] <- b` -/
def State.setReg (s : State) (r : Nibble) (b : Byte) : State := { s with v := s.v.set r.toNat b r.isLt }

/-- `I <- w` -/
def State.setI (s : State) (w : Word) : State := { s with i := w }

/-- `pc <- w` -/
def State.setPc (s : State) (w : Word) : State := { s with pc := w }

/-- `DT <- b` -/
def State.setDt (s : State) (b : Byte) : State := { s with dt := b }

/-- `ST <- b` -/
def State.setSt (s : State) (b : Byte) : State := { s with st := b }

/-- the display written whole -/
def State.setDisp (s : State) (d : Grid) : State := { s with disp := d }

/-- the memory written -/
def State.setMem (s : State) (m : Memory) : State := { s with mem := m }

/-- `WAIT <- 1; WREG <- r` (45_timers_keys.md R246) -/
def State.enterWait (s : State) (r : Nibble) : State := { s with wait := true, wreg := r }

/-- `WAIT <- 0` (60_exceptions.md R282) -/
def State.endWait (s : State) : State := { s with wait := false }

/-- `Skip()` when `c` holds: `pc <- pc + 2` (00_scope.md R12) -/
def State.skipIf (s : State) (c : Bool) : State := if c then s.setPc (s.pc + 2) else s

/-! ## The call stack (10_state.md R30 to R33) -/

/-- The call stack written: its entries and its count. -/
def State.setStack (s : State) (stk : Vector Word 16) (sp : Fin 17) : State := { s with stk := stk, sp := sp }

/-- `Push(v)` (R32); `none` when `SP = 16`, which is the stack overflow. -/
def State.push (s : State) (w : Word) : Option State :=
  if h : s.sp.val < 16 then
    some (s.setStack (s.stk.set s.sp.val w h) ⟨s.sp.val + 1, Nat.succ_lt_succ h⟩)
  else none

/-- `Pop()` (R33): the entry at the new count, and the state after; `none` when `SP = 0`, which is the stack underflow. The
popped entry stays in `STK` as a dead entry (41_control_flow.md R144). -/
def State.pop (s : State) : Option (Word × State) :=
  match s.sp with
  | ⟨0, _⟩ => none
  | ⟨n + 1, h⟩ => some (s.stk[n]'(Nat.lt_of_succ_lt_succ h), s.setStack s.stk ⟨n, Nat.lt_of_succ_lt h⟩)

/-! ## Taking a fault (60_exceptions.md R262, R265)

There is no return from a fault (R269): only `Reset` leaves the halted state (R263; `State.onReset` in
Machine/Events.lean). -/

/-- `raise`: `pc` is the address `pc0` of the faulting instruction, `FAULT` is filled, nothing else changes. `ir` and `addr`
are `none` where the kind leaves the field unspecified: there it is a free value (log 4). -/
def State.raise (s : State) (kind : FaultKind) (pc0 : Word) (ir addr : Option Word) : State :=
  { s with
    pc := pc0
    fault :=
      { kind := kind
        pc0 := pc0
        ir := ir.getD (Config.noFaultIr s.env.tick)
        addr := addr.getD (Config.noFaultAddr s.env.tick) } }

/-- `raise` by an instruction that is executing: `pc` is its address plus 2 (00_scope.md R13) and `IR` holds its word. -/
def State.raiseHere (s : State) (kind : FaultKind) (addr : Option Word) : State :=
  s.raise kind (s.pc - 2) (some s.ir) addr

/-- The halted state (60_exceptions.md R263). -/
def State.halted (s : State) : Bool := s.fault.kind != .none

/-- The report of a halted core: the fault record, less the fields its kind leaves unspecified (60_exceptions.md R265).
`none` when there is no fault. -/
def FaultRecord.report (r : FaultRecord) : Option Fault :=
  match r.kind with
  | .none => none
  | .outOfBounds => some (.outOfBounds r.pc0 r.ir r.addr)
  | .invalidInstruction => some (.invalidInstruction r.pc0 r.ir)
  | .stackOverflow => some (.stackOverflow r.pc0 r.ir)
  | .stackUnderflow => some (.stackUnderflow r.pc0 r.ir)

/-! ## Fetch (40_fetch_decode_cycle.md R123, R124) -/

/-- The word at address `a`: `{MEM[a], MEM[a + 1]}` (20_memory.md R64). -/
def Memory.readWord (m : Memory) (a : Nat) : Word := wordOfBytes (Memory.read m a) (Memory.read m (a + 1))

/-- `MEM[a]` and `MEM[a + 1]` written with a word, high byte first (20_memory.md R64). -/
def Memory.writeWord (m : Memory) (a : Nat) (w : Word) : Memory := Memory.writeList m a (bytesOfWord w)

/-- The word at `pc`; `none` when `pc > 4094`, which is the fetch fault. There is no alignment check (20_memory.md R67). -/
def State.fetch (s : State) : Option Word :=
  if 4094 < s.pc.toNat then none else some (Memory.readWord s.mem s.pc.toNat)

/-- `IR <- w; pc <- pc + 2` -/
def State.advance (s : State) (w : Word) : State := { s with ir := w, pc := s.pc + 2 }

end Sys2Proof.Machine
end

