-- ==== Sys2Proof/Machine/Operands.lean ====
section
/-! DEFINITION. Sys2Proof/Machine/Operands.lean: the operand forms of 30_encoding.md R92 that are more than a register named
by a field: the zero-extended immediate, the effective address through `I`, the key a register names, the digits of a
byte, the glyph of a digit. -/

namespace Sys2Proof.Machine

/-- `zext_16(nnn)` (30_encoding.md R92) -/
def addrOfImm (nnn : Imm12) : Word := nnn.setWidth 16

/-- `zext_16(b)` (00_scope.md R10) -/
def zext16 (b : Byte) : Word := b.setWidth 16

/-- `zext_8(k)` of a key number (60_exceptions.md R282) -/
def zext8 (k : Nibble) : Byte := k.setWidth 8

/-- The address of byte `k` of a data access, `I + k`, a natural that never wraps (43_index_memory.md R207, 20_memory.md
R63). -/
def State.ea (s : State) (k : Nat) : Nat := s.i.toNat + k

/-- A data access of `n` bytes from `I` upward is in bounds (43_index_memory.md R204). -/
def State.dataInBounds (s : State) (n : Nat) : Bool := inBounds (s.ea 0) n

/-- The address an out-of-bounds data access records: `max(I, 4096)` (43_index_memory.md R204, D22). -/
def State.dataFaultAddr (s : State) : Word := BitVec.ofNat 16 (max s.i.toNat Config.memSize)

/-- `pressed(v)`: key `v` is held; a number of 16 or more names no key (45_timers_keys.md R245, D9). -/
def pressed (keys : BitVec 16) (v : Byte) : Bool := decide (v.toNat < Config.numKeys) && keys.getLsbD v.toNat

/-- The three decimal digits of a byte, hundreds first (43_index_memory.md R203, 20_memory.md R65). -/
def digits (a : Byte) : List Byte :=
  [BitVec.ofNat 8 (a.toNat / 100), BitVec.ofNat 8 (a.toNat / 10 % 10), BitVec.ofNat 8 (a.toNat % 10)]

/-- `0x050 + 5 * zext_16(d)`: all 8 bits of `d` enter the product (43_index_memory.md R202). -/
def glyphAddr (d : Byte) : Word := BitVec.ofNat 16 Config.fontBase + 5 * zext16 d

/-- How many registers `V[0]` to `V[x]` are: here the field is a count (43_index_memory.md R205, R206). -/
def regCount (x : Nibble) : Nat := x.toNat + 1

/-- `V[0]` to `V[x]`, in order (43_index_memory.md R205). -/
def State.regsUpTo (s : State) (x : Nibble) : List Byte := s.v.toList.take (regCount x)

/-- `V[j] <- MemRead(I + j, 1)` for `j` in 0 to `x` (43_index_memory.md R206). -/
def State.loadRegs (s : State) (x : Nibble) : State :=
  { s with
    v := Vector.ofFn fun j : Fin 16 => if j.val ≤ x.toNat then Memory.read s.mem (s.ea j.val) else s.v[j.val] }

end Sys2Proof.Machine
end

