-- ==== Sys2Proof/Machine/ControlFlow.lean ====
section
/-! DEFINITION. Sys2Proof/Machine/ControlFlow.lean: control transfer and skips (41_control_flow.md R140 to R149). `pc` is
already the address of the instruction plus 2 (00_scope.md R13). No target is checked here; an unusable one faults at the
next fetch (R140). -/

namespace Sys2Proof.Machine

/-- What every meaning answers. -/
abbrev Result := Host.Outcome State Fault Refusal

/-- 0nnn, `SYS nnn`: nothing; `nnn` is ignored (R141). -/
def execSys (_nnn : Imm12) (s : State) : Result := .next s

/-- 1nnn, `JP nnn`: `pc <- zext_16(nnn)` (R142). -/
def execJp (nnn : Imm12) (s : State) : Result := .next (s.setPc (addrOfImm nnn))

/-- 2nnn, `CALL nnn`: `Push(pc)`, then `pc <- zext_16(nnn)`; `StackOverflow` when `SP = 16` (R143). -/
def execCall (nnn : Imm12) (s : State) : Result :=
  match s.push s.pc with
  | some t => .next (t.setPc (addrOfImm nnn))
  | none => .next (s.raiseHere .stackOverflow none)

/-- 00EE, `RET`: `pc <- Pop()`; `StackUnderflow` when `SP = 0` (R144). -/
def execRet (s : State) : Result :=
  match s.pop with
  | some (target, t) => .next (t.setPc target)
  | none => .next (s.raiseHere .stackUnderflow none)

/-- Bnnn, `JP V0, nnn`: `pc <- zext_16(nnn) + zext_16(V[0])`, in 16 bits and not reduced to 12 (R145). -/
def execJpV0 (nnn : Imm12) (s : State) : Result := .next (s.setPc (addrOfImm nnn + zext16 (s.reg 0)))

/-- 3xkk, `SE Vx, kk` (R146). -/
def execSeVxKk (x : Nibble) (kk : Byte) (s : State) : Result := .next (s.skipIf (s.reg x == kk))

/-- 4xkk, `SNE Vx, kk` (R147). -/
def execSneVxKk (x : Nibble) (kk : Byte) (s : State) : Result := .next (s.skipIf (s.reg x != kk))

/-- 5xy0, `SE Vx, Vy` (R148). -/
def execSeVxVy (x y : Nibble) (s : State) : Result := .next (s.skipIf (s.reg x == s.reg y))

/-- 9xy0, `SNE Vx, Vy` (R149). -/
def execSneVxVy (x y : Nibble) (s : State) : Result := .next (s.skipIf (s.reg x != s.reg y))

end Sys2Proof.Machine
end

