-- ==== Sys2Proof/Machine/Flags.lean ====
section
/-! DEFINITION. Sys2Proof/Machine/Flags.lean: every flag computation of the ISA. The one flag is `V[0xF]`, written 1 or 0
(10_state.md R42). -/

namespace Sys2Proof.Machine

/-- A flag as the byte written to `V[0xF]`. -/
def flagByte (c : Bool) : Byte := if c then 1 else 0

/-- `V[0xF] <- c` -/
def State.setFlag (s : State) (c : Bool) : State := s.setReg 0xF (flagByte c)

/-- 8xy4: the carry out, 1 when the exact sum is above 255 (42_load_alu.md R176, R182). -/
def carryOut (a b : Byte) : Bool := decide (255 < a.toNat + b.toNat)

/-- 8xy5 and 8xy7: 1 when the subtraction `a - b` needs no borrow, equality included (42_load_alu.md R177, R179, R182). -/
def noBorrow (a b : Byte) : Bool := decide (b.toNat ≤ a.toNat)

/-- 8xy6: the bit shifted out to the right (42_load_alu.md R178). -/
def lowBit (a : Byte) : Bool := a.getLsbD 0

/-- 8xyE: the bit shifted out to the left (42_load_alu.md R180). -/
def highBit (a : Byte) : Bool := a.getLsbD 7

end Sys2Proof.Machine
end

