-- ==== Sys2Proof/Machine/IndexMemory.lean ====
section
/-! DEFINITION. Sys2Proof/Machine/IndexMemory.lean: the index register and the memory instructions (43_index_memory.md R200
to R207). No instruction changes `I` as a side effect of an access (R207). -/

namespace Sys2Proof.Machine

/-- Annn, `LD I, nnn` (R200). -/
def execLdINnn (nnn : Imm12) (s : State) : Result := .next (s.setI (addrOfImm nnn))

/-- Fx1E, `ADD I, Vx`: modulo 65536, no flag, no fault (R201, D8; log 14). -/
def execAddIVx (x : Nibble) (s : State) : Result := .next (s.setI (s.i + zext16 (s.reg x)))

/-- Fx29, `LD F, Vx` (R202). -/
def execLdFVx (x : Nibble) (s : State) : Result := .next (s.setI (glyphAddr (s.reg x)))

/-- A data access of `n` bytes from `I`: the whole range is checked before anything is read or written; out of bounds the
instruction raises `OutOfBounds` and has no other effect, else it goes on to `t` (R204, 20_memory.md R62). -/
def State.access (s : State) (n : Nat) (t : State) : Result :=
  if s.dataInBounds n then .next t else .next (s.raiseHere .outOfBounds (some s.dataFaultAddr))

/-- Fx33, `LD B, Vx`: the three digits at `I`, `I + 1`, `I + 2` (R203). -/
def execLdBVx (x : Nibble) (s : State) : Result :=
  s.access 3 (s.setMem (Memory.writeList s.mem (s.ea 0) (digits (s.reg x))))

/-- Fx55, `LD [I], Vx`: `V[0]` to `V[x]` at `I` to `I + x` (R205). -/
def execLdMemVx (x : Nibble) (s : State) : Result :=
  s.access (regCount x) (s.setMem (Memory.writeList s.mem (s.ea 0) (s.regsUpTo x)))

/-- Fx65, `LD Vx, [I]`: `V[0]` to `V[x]` from `I` to `I + x` (R206). -/
def execLdVxMem (x : Nibble) (s : State) : Result := s.access (regCount x) (s.loadRegs x)

end Sys2Proof.Machine
end

