-- ==== Sys2Proof/Machine/Display.lean ====
section
/-! DEFINITION. Sys2Proof/Machine/Display.lean: the display and the sprite compositor (44_display.md R220 to R226), the
compositor as the loop of R221. -/

namespace Sys2Proof.Machine

/-- `DISP[px][py]` (10_state.md R35) -/
def pixel (d : Grid) (px : Fin 64) (py : Fin 32) : Bool := d[py].getLsbD px

/-- `DISP[px][py] <- DISP[px][py] ^ 1` -/
def togglePixel (d : Grid) (px : Fin 64) (py : Fin 32) : Grid := d.set py (d[py] ^^^ BitVec.twoPow 64 px)

/-- The clear grid: every pixel 0 (R220). -/
def blankGrid : Grid := Vector.replicate 32 0

/-- The display column of a sprite column: `(x0 + col) mod 64` (R223). -/
def spriteCol (x0 : Byte) (col : Nat) : Fin 64 := ⟨(x0.toNat + col) % 64, Nat.mod_lt _ (by decide)⟩

/-- The display row of a sprite row: `(y0 + row) mod 32` (R223). -/
def spriteRow (y0 : Byte) (row : Nat) : Fin 32 := ⟨(y0.toNat + row) % 32, Nat.mod_lt _ (by decide)⟩

/-- Sprite column `col` of the row byte `b` is set: column 0 is the most significant bit (R221). -/
def spriteBit (b : Byte) (col : Nat) : Bool := b.getLsbD (7 - col)

/-- One turn of the inner loop of R221. The grid and the collision so far go in and come out. -/
def drawBit (x0 y0 : Byte) (row : Nat) (b : Byte) (acc : Grid × Bool) (col : Nat) : Grid × Bool :=
  if spriteBit b col then
    (togglePixel acc.1 (spriteCol x0 col) (spriteRow y0 row),
      acc.2 || pixel acc.1 (spriteCol x0 col) (spriteRow y0 row))
  else acc

/-- The inner loop of R221: the 8 columns of one sprite row. -/
def drawRow (x0 y0 : Byte) (row : Nat) (b : Byte) (acc : Grid × Bool) : Grid × Bool :=
  [0, 1, 2, 3, 4, 5, 6, 7].foldl (drawBit x0 y0 row b) acc

/-- The outer loop of R221: the sprite rows from `row` on. -/
def drawRows (x0 y0 : Byte) (row : Nat) : List Byte → Grid × Bool → Grid × Bool
  | [], acc => acc
  | b :: bs, acc => drawRows x0 y0 (row + 1) bs (drawRow x0 y0 row b acc)

/-- `draw(x0, y0, rows)`: the new grid and whether any pixel went from 1 to 0 (R221). -/
def draw (d : Grid) (x0 y0 : Byte) (rows : List Byte) : Grid × Bool := drawRows x0 y0 0 rows (d, false)

/-- The `n` sprite bytes `I` to `I + n - 1` (R222). -/
def State.spriteBytes (s : State) (n : Nibble) : List Byte := Memory.readList s.mem (s.ea 0) n.toNat

/-- The state after a sprite is drawn: the display, and the collision in `V[0xF]`, always written (R222). -/
def State.drawn (s : State) (r : Grid × Bool) : State := (s.setDisp r.1).setFlag r.2

/-- 00E0, `CLS` (R220). -/
def execCls (s : State) : Result := .next (s.setDisp blankGrid)

/-- Dxyn, `DRW Vx, Vy, n`: coordinates sampled before `V[0xF]` is written; `n = 0` reads and draws nothing and writes 0 to
`V[0xF]` (R222, R224). -/
def execDrw (x y n : Nibble) (s : State) : Result :=
  s.access n.toNat (s.drawn (draw s.disp (s.reg x) (s.reg y) (s.spriteBytes n)))

end Sys2Proof.Machine
end

