-- ==== Sys2Proof/Machine/LoadAlu.lean ====
section
/-! DEFINITION. Sys2Proof/Machine/LoadAlu.lean: register loads, arithmetic, logic, shifts and random (42_load_alu.md R170 to
R183). The operands are sampled before any write (00_scope.md R14). Where a row writes both `V[x]` and the flag, the writes
are in the row's order, which decides what `V[0xF]` holds when `x = F` (R183, D7; log 14). -/

namespace Sys2Proof.Machine

/-- 6xkk, `LD Vx, kk` (R170). -/
def execLdVxKk (x : Nibble) (kk : Byte) (s : State) : Result := .next (s.setReg x kk)

/-- 7xkk, `ADD Vx, kk`: modulo 256, no flag (R171). -/
def execAddVxKk (x : Nibble) (kk : Byte) (s : State) : Result := .next (s.setReg x (s.reg x + kk))

/-- 8xy0, `LD Vx, Vy` (R172). -/
def execLdVxVy (x y : Nibble) (s : State) : Result := .next (s.setReg x (s.reg y))

/-- 8xy1, `OR Vx, Vy`: no flag (R173). -/
def execOr (x y : Nibble) (s : State) : Result := .next (s.setReg x (s.reg x ||| s.reg y))

/-- 8xy2, `AND Vx, Vy`: no flag (R174). -/
def execAnd (x y : Nibble) (s : State) : Result := .next (s.setReg x (s.reg x &&& s.reg y))

/-- 8xy3, `XOR Vx, Vy`: no flag (R175). -/
def execXor (x y : Nibble) (s : State) : Result := .next (s.setReg x (s.reg x ^^^ s.reg y))

/-- 8xy4, `ADD Vx, Vy`: the result first, the carry last (R176). -/
def execAddVxVy (x y : Nibble) (s : State) : Result :=
  .next ((s.setReg x (s.reg x + s.reg y)).setFlag (carryOut (s.reg x) (s.reg y)))

/-- The shared form of 8xy5, 8xy6, 8xy7 and 8xyE: the flag first, the result last (R183). -/
def State.flagThenReg (s : State) (x : Nibble) (flag : Bool) (result : Byte) : State :=
  (s.setFlag flag).setReg x result

/-- 8xy5, `SUB Vx, Vy` (R177). -/
def execSub (x y : Nibble) (s : State) : Result :=
  .next (s.flagThenReg x (noBorrow (s.reg x) (s.reg y)) (s.reg x - s.reg y))

/-- 8xy6, `SHR Vx`: in place, `V[y]` unused (R178, R98). -/
def execShr (x _y : Nibble) (s : State) : Result := .next (s.flagThenReg x (lowBit (s.reg x)) (s.reg x >>> 1))

/-- 8xy7, `SUBN Vx, Vy` (R179). -/
def execSubn (x y : Nibble) (s : State) : Result :=
  .next (s.flagThenReg x (noBorrow (s.reg y) (s.reg x)) (s.reg y - s.reg x))

/-- 8xyE, `SHL Vx`: in place, `V[y]` unused (R180, R98). -/
def execShl (x _y : Nibble) (s : State) : Result := .next (s.flagThenReg x (highBit (s.reg x)) (s.reg x <<< 1))

/-- Cxkk, `RND Vx, kk`: the random byte of this tick, masked (R181, D10; log 5). -/
def execRnd (x : Nibble) (kk : Byte) (s : State) : Result := .next (s.setReg x (s.env.rnd &&& kk))

end Sys2Proof.Machine
end

