-- ==== Sys2Proof/Machine/TimersKeys.lean ====
section
/-! DEFINITION. Sys2Proof/Machine/TimersKeys.lean: the timer and keypad instructions (45_timers_keys.md R240 to R247). The
timer tick and the key press are events, in Machine/Events.lean. -/

namespace Sys2Proof.Machine

/-- Fx07, `LD Vx, DT` (R240). -/
def execLdVxDt (x : Nibble) (s : State) : Result := .next (s.setReg x s.dt)

/-- Fx15, `LD DT, Vx` (R241). -/
def execLdDtVx (x : Nibble) (s : State) : Result := .next (s.setDt (s.reg x))

/-- Fx18, `LD ST, Vx` (R242). -/
def execLdStVx (x : Nibble) (s : State) : Result := .next (s.setSt (s.reg x))

/-- Ex9E, `SKP Vx`: skip when the key is held at this tick (R243; log 6). -/
def execSkp (x : Nibble) (s : State) : Result := .next (s.skipIf (pressed s.env.keys (s.reg x)))

/-- ExA1, `SKNP Vx`: skip when it is not (R244; log 6). -/
def execSknp (x : Nibble) (s : State) : Result := .next (s.skipIf (!pressed s.env.keys (s.reg x)))

/-- Fx0A, `LD Vx, K`: enter the wait state; the key-press event writes the register (R246, R247). -/
def execLdVxK (x : Nibble) (s : State) : Result := .next (s.enterWait x)

end Sys2Proof.Machine
end

