-- ==== Sys2Proof/Machine/Events.lean ====
section
/-! DEFINITION. Sys2Proof/Machine/Events.lean: the events of 40_fetch_decode_cycle.md R120 other than the instruction tick,
and the outputs the host reads. -/

namespace Sys2Proof.Machine

/-- One count of a timer: down by 1, clamped at 0 (10_state.md R34). -/
def countDown (b : Byte) : Byte := if b != 0 then b - 1 else b

/-- `TTick`: each timer down by 1 unless it is 0, independently; nothing else; the wait does not block it; ignored by a
halted core (60_exceptions.md R275, R263). -/
def State.onTimerTick (s : State) : State :=
  if s.halted then s
  else (s.setDt (countDown s.dt)).setSt (countDown s.st)

/-- `KeyPress(k)`: ends a wait by writing the key number to `V[WREG]`; dropped when there is no wait; ignored by a halted core
(60_exceptions.md R282, R263, D17, D18; log 14). -/
def State.onKeyPress (s : State) (k : Nibble) : State :=
  if s.halted then s
  else if s.wait then (s.setReg s.wreg (zext8 k)).endWait
  else s

/-- `Reset`, in any state: every field at its reset value (70_reset_and_hazards.md R300, R301). The model's own fields go on:
the tick counter, so that the free values after the reset are fresh ones, and the events still to come (log 13). -/
def State.onReset (s : State) : State :=
  { State.reset with env := { s.env with started := false } }

/-- `Load(bytes)`: copy the bytes from `PROG_BASE` upward; a load that does not fit changes nothing and is no fault of the
core (70_reset_and_hazards.md R304, D14; log 11). -/
def State.onLoad (s : State) (bytes : List Byte) : State :=
  if Config.progBase + bytes.length ≤ Config.memSize then
    s.setMem (Memory.writeList s.mem Config.progBase bytes)
  else s

/-- One host event. `Load` after the first instruction tick has no move: it is refused by name (70_reset_and_hazards.md R305,
U13; log 11). -/
def State.deliver (s : State) (e : HostEvent) : Host.Outcome State Fault Refusal :=
  match e with
  | .reset => .next s.onReset
  | .load bytes => if s.env.started then .refused .loadAfterStart else .next (s.onLoad bytes)
  | .timerTick => .next s.onTimerTick
  | .keyPress k => .next (s.onKeyPress k)

/-- The next event is taken from the inbox. -/
def State.withInbox (s : State) (rest : List HostEvent) : State := { s with env := { s.env with inbox := rest } }

/-! ## Outputs (60_exceptions.md R278, R280, R288) -/

/-- `sound_on`, the level `ST != 0` (R278, C6) -/
def State.soundOn (s : State) : Bool := s.st != 0

/-- `display_out`, the whole grid, pixel `(x, y)` at bit `64*y + x` (R280, D16) -/
def State.displayOut (s : State) : BitVec 2048 :=
  BitVec.ofNat 2048 (s.disp.toList.foldr (fun row rest => row.toNat + 2 ^ 64 * rest) 0)

/-- `waiting` (R288) -/
def State.waiting (s : State) : Bool := s.wait

/-- `fault_kind`, the numeric code (R261, R288) -/
def State.faultCode (s : State) : BitVec 3 :=
  match s.fault.kind with
  | .none => 0
  | .outOfBounds => 1
  | .invalidInstruction => 2
  | .stackOverflow => 3
  | .stackUnderflow => 4

end Sys2Proof.Machine
end

