-- ==== Sys2Proof/Machine/Tick.lean ====
section
/-! DEFINITION. Sys2Proof/Machine/Tick.lean: the instruction tick `ITick(rnd, keys)` (40_fetch_decode_cycle.md R121, R128),
and what the model's own fields do around it. -/

namespace Sys2Proof.Machine

/-- The inputs `rnd` and `keys` are sampled anew at every instruction tick: free values (60_exceptions.md R281, R284; log 5,
6). -/
def State.sampled (s : State) : State :=
  { s with env := { s.env with rnd := Config.rnd s.env.tick, keys := Config.keys s.env.tick } }

/-- What the model does at the end of every instruction tick: `IR` is unspecified until the next one (10_state.md R36; log
1), the events that come before the next one are drawn (log 7), and `Load` is over (log 11). -/
def State.endTick (s : State) : State :=
  { s with
    ir := Config.idleIr s.env.tick
    env := { s.env with tick := s.env.tick + 1, inbox := Config.arrivals s.env.tick, started := true } }

/-- The end of a tick on an outcome: only a next state goes on. -/
def endOfTick (r : Host.Outcome State Fault Refusal) : Host.Outcome State Fault Refusal :=
  match r with
  | .next s => .next s.endTick
  | .fault f => .fault f
  | .refused x => .refused x

/-- Fetch, decode and execute (40_fetch_decode_cycle.md R121 from the fetch bound on, R123, R124, R126). A fault of the fetch
records `pc` as the offending address and no instruction word (R124, D22). -/
def State.runOne (s : State) : Host.Outcome State Fault Refusal :=
  match s.fetch with
  | none => .next (s.raise .outOfBounds s.pc none (some s.pc))
  | some w =>
    match decode w with
    | some i => exec i (s.advance w)
    | none => .next (s.raise .invalidInstruction s.pc (some w) none)

/-- `ITick`: a halted core stops the machine with its fault record (60_exceptions.md R263; log 8); a waiting core does nothing
(R122); else one instruction runs. -/
def State.instrTick (s : State) : Host.Outcome State Fault Refusal :=
  match s.fault.report with
  | some f => .fault f
  | none => if s.wait then .next s.endTick else endOfTick s.sampled.runOne

/-- The state with `w` where the next step fetches its instruction, so that the next step is an instruction tick that runs it:
no event waits before it, the core is neither halted nor waiting, and `pc` is an address that can be fetched from (log 12).
From `State.reset` only memory differs. -/
def State.withFetch (s : State) (w : Word) : State :=
  let pc := if 4094 < s.pc.toNat then BitVec.ofNat 16 Config.progBase else s.pc
  { s with
    pc := pc
    mem := Memory.writeWord s.mem pc.toNat w
    wait := false
    fault := { s.fault with kind := .none }
    env := { s.env with inbox := [] } }

end Sys2Proof.Machine
end

