-- ==== Sys2Proof/Machine/Step.lean ====
section
/-! DEFINITION. Sys2Proof/Machine/Step.lean: one step: the next host event if one waits, else an instruction tick
(40_fetch_decode_cycle.md R120, R131; log 7). -/

namespace Sys2Proof.Machine

/-- One event of 40_fetch_decode_cycle.md R120. -/
def step (s : State) : Host.Outcome State Fault Refusal :=
  match s.env.inbox with
  | [] => s.instrTick
  | e :: rest => (s.withInbox rest).deliver e

/-- `s` with the instruction whose bits are `w` where `step` fetches its next instruction (log 12). Every row of
spec/opcode_table.json has 16 bits. -/
def State.withFetchWord (s : State) (nbits w : Nat) : State := s.withFetch (BitVec.ofNat 16 (w % 2 ^ nbits))

end Sys2Proof.Machine
end

