-- ==== Sys2Proof/Safety.lean ====
section
/-! DEFINITION. Sys2Proof/Safety.lean: the terms claims are stated in: what part of the state an operation leaves alone, the
invariants of the machine, and when a run has ended. -/

namespace Sys2Proof.Machine

/-! ## Frames -/

/-- A part of the state a frame speaks of: the fields of 10_state.md R20 (`SP` with `STK`, `WREG` with `WAIT`) and the model's
own `env`. -/
inductive Part where
  | regs | index | pc | mem | stack | dt | st | disp | ir | wait | fault | env
  deriving DecidableEq, Repr

/-- The part reads the same in `t` as in `s`. Memory is compared by reading a byte at every address. -/
def Part.Same (p : Part) (s t : State) : Prop :=
  match p with
  | .regs => ∀ r : Nibble, t.reg r = s.reg r
  | .index => t.i = s.i
  | .pc => t.pc = s.pc
  | .mem => ∀ a : Nat, Memory.read t.mem a = Memory.read s.mem a
  | .stack => t.sp = s.sp ∧ ∀ j : Fin 16, t.stk[j] = s.stk[j]
  | .dt => t.dt = s.dt
  | .st => t.st = s.st
  | .disp => ∀ (px : Fin 64) (py : Fin 32), pixel t.disp px py = pixel s.disp px py
  | .ir => t.ir = s.ir
  | .wait => t.wait = s.wait ∧ t.wreg = s.wreg
  | .fault => t.fault = s.fault
  | .env => t.env = s.env

/-- Every part that is not listed is the same in `t` as in `s`. -/
def UnchangedExcept (written : List Part) (s t : State) : Prop :=
  ∀ p : Part, p ∉ written → p.Same s t

/-- Every general register that is not listed is the same in `t` as in `s`. -/
def RegsExcept (written : List Nibble) (s t : State) : Prop :=
  ∀ r : Nibble, r ∉ written → t.reg r = s.reg r

/-- Every byte outside the `n` bytes from address `a` upward reads the same in `t` as in `s`. -/
def MemExcept (a n : Nat) (s t : State) : Prop :=
  ∀ b : Nat, ¬ (a ≤ b ∧ b < a + n) → Memory.read t.mem b = Memory.read s.mem b

/-- `t` is `s` after the instruction that executes in `s` has raised a fault of this kind: the record is filled with the
address and the word of the instruction, `pc` is put back, nothing else differs (60_exceptions.md R262, R265). -/
def RaisedHere (kind : FaultKind) (s t : State) : Prop :=
  t.fault.kind = kind ∧ t.fault.pc0 = s.pc - 2 ∧ t.fault.ir = s.ir ∧ t.pc = s.pc - 2 ∧ UnchangedExcept [.pc, .fault] s t

/-! ## Sprites (44_display.md R221 to R223) -/

/-- A set sprite bit of the sprite `DRW Vx, Vy, n` draws from state `s` lands on pixel `(px, py)`. -/
def SpriteCovers (s : State) (x y n : Nibble) (px : Fin 64) (py : Fin 32) : Prop :=
  ∃ row col : Nat, row < n.toNat ∧ col < 8 ∧
    ((s.reg x).toNat + col) % 64 = px.val ∧ ((s.reg y).toNat + row) % 32 = py.val ∧
    (Memory.read s.mem (s.i.toNat + row)).getLsbD (7 - col) = true

/-! ## Running -/

/-- The next step is an instruction tick that fetches: no event waits before it, the core is neither halted nor suspended
(40_fetch_decode_cycle.md R121). -/
abbrev State.Ready (s : State) : Prop := s.env.inbox = [] ∧ s.fault.kind = .none ∧ s.wait = false

/-- The next step fetches an instruction of the table, `i`, whose word is `w` (40_fetch_decode_cycle.md R121). -/
abbrev State.Fetches (s : State) (w : Word) (i : Instr) : Prop :=
  s.Ready ∧ s.pc.toNat ≤ 4094 ∧ Memory.readWord s.mem s.pc.toNat = w ∧ decode w = some i

/-- The end of a run by the convention of programs: `pc` holds the address `a` of a jump to itself, and no fault is recorded,
since "a faulted state is never an end" (70_reset_and_hazards.md R315, D21). It says nothing of the timers, the keys, a wait or
the events still to come. -/
abbrev State.AtSelfJump (s : State) (a : Word) : Prop :=
  s.fault.kind = .none ∧ s.pc = a ∧ s.pc.toNat ≤ 4094 ∧
    ∃ nnn : Imm12, addrOfImm nnn = a ∧ Memory.readWord s.mem s.pc.toNat = encode (.jp nnn)

/-! ## Invariants -/

/-- Memory is in its canonical form. -/
abbrev State.MemoryCanonical (s : State) : Prop := Memory.wf s.mem

/-- `pc` is at most 0x10FE and every live return address is at most 4096 (10_state.md R27). -/
abbrev State.AddressesBounded (s : State) : Prop :=
  s.pc.toNat ≤ 0x10FE ∧ ∀ j : Fin 16, j.val < s.sp.val → s.stk[j].toNat ≤ 4096

/-- What made the fault is still to be seen in the state: the state is frozen at the one before the faulting instruction
(60_exceptions.md R262, R265). -/
def State.CauseStands (s : State) : Prop :=
  match s.fault.kind with
  | .none => True
  | .outOfBounds =>
    (4094 < s.pc.toNat ∧ s.fault.addr = s.pc) ∨
    (s.pc.toNat ≤ 4094 ∧ Memory.readWord s.mem s.pc.toNat = s.fault.ir ∧ s.fault.addr.toNat = max s.i.toNat 4096 ∧
      ∃ x y n : Nibble,
        (decode s.fault.ir = some (.drw x y n) ∧ 0 < n.toNat ∧ 4095 < s.i.toNat + n.toNat - 1) ∨
        (decode s.fault.ir = some (.ldBVx x) ∧ 4095 < s.i.toNat + 2) ∨
        (decode s.fault.ir = some (.ldMemVx x) ∧ 4095 < s.i.toNat + x.toNat) ∨
        (decode s.fault.ir = some (.ldVxMem x) ∧ 4095 < s.i.toNat + x.toNat))
  | .invalidInstruction =>
    s.pc.toNat ≤ 4094 ∧ Memory.readWord s.mem s.pc.toNat = s.fault.ir ∧ decode s.fault.ir = none
  | .stackOverflow =>
    s.pc.toNat ≤ 4094 ∧ Memory.readWord s.mem s.pc.toNat = s.fault.ir ∧ s.sp.val = 16 ∧
      ∃ nnn : Imm12, decode s.fault.ir = some (.call nnn)
  | .stackUnderflow =>
    s.pc.toNat ≤ 4094 ∧ Memory.readWord s.mem s.pc.toNat = s.fault.ir ∧ s.sp.val = 0 ∧ decode s.fault.ir = some .ret

/-- A halted core is not suspended, an instruction tick has come, `FAULT.pc0` is `pc`, and the cause stands. -/
def State.FaultRecordTrue (s : State) : Prop :=
  s.halted = true → s.wait = false ∧ s.env.started = true ∧ s.fault.pc0 = s.pc ∧ s.CauseStands

end Sys2Proof.Machine
end

