-- ==== Sys2Proof/Certificates/Slice0/Obligations.lean ====
section
/-! DEFINITION. Sys2Proof/Certificates/Slice0/Obligations.lean: the statements for the provers. In a statement about `exec`,
`s` is the state after the fetch: `pc` is the address of the instruction plus 2, `IR` holds its word (00_scope.md R13). A
statement about a free value (`env.rnd`, `env.keys`) holds for every value of it. -/

open Sys2Proof Sys2Proof.Machine

/-! ## Encoding (30_encoding.md) -/

/-- Words written out from the patterns of 30_encoding.md R94 decode to the instructions they stand for; the source's
invalid word 0x5001 to none. -/
def Obligations.KnownWordsDecode : Prop :=
  decode 0x00E0 = some .cls ∧ decode 0x00EE = some .ret ∧ decode 0x0123 = some (.sys 0x123) ∧
  decode 0x2ABC = some (.call 0xABC) ∧ decode 0x3A05 = some (.seVxKk 0xA 0x05) ∧
  decode 0x8127 = some (.subn 0x1 0x2) ∧ decode 0xA2F0 = some (.ldINnn 0x2F0) ∧
  decode 0xD125 = some (.drw 0x1 0x2 0x5) ∧ decode 0xE29E = some (.skp 0x2) ∧
  decode 0xF155 = some (.ldMemVx 0x1) ∧ decode 0x5001 = none

/-- Every well-formed instruction is what its own word decodes to: no bit of a field is dropped (30_encoding.md R91, R94,
R95). -/
def Obligations.DecodeOfEncode : Prop :=
  ∀ i : Instr, i.wf = true → decode (encode i) = some i

/-- A word that decodes is the word of what it decodes to, and that instruction is well-formed: each valid word has exactly
one meaning (30_encoding.md R93). -/
def Obligations.EncodeOfDecode : Prop :=
  ∀ (w : Word) (i : Instr), decode w = some i → i.wf = true ∧ encode i = w

/-- The decoder takes exactly the words some row of the opcode map matches, and a word's row is the only one that matches it
but for 00E0 and 00EE, which 0nnn matches too (30_encoding.md R93, R94). -/
def Obligations.MatchAndMaskColumnsDecide : Prop :=
  ∀ w : Word,
    ((∃ j : Instr, w &&& j.mask = j.pattern) ↔ decode w ≠ none) ∧
    ∀ i j : Instr, decode w = some i → w &&& j.mask = j.pattern →
      (j.mask = i.mask ∧ j.pattern = i.pattern) ∨ (j.mask = 0xF000#16 ∧ j.pattern = 0x0000#16 ∧ (w = 0x00E0#16 ∨ w = 0x00EE#16))

/-- The invalid words, by major opcode (the table of 30_encoding.md R96, which the spec marks as derived). -/
def Obligations.InvalidWordsAreTheListedOnes : Prop :=
  ∀ w : Word, decode w = none ↔
    (fieldOp w = 0x5 ∧ fieldN w ≠ 0x0) ∨
    (fieldOp w = 0x8 ∧ fieldN w ∈ [0x8#4, 0x9#4, 0xA#4, 0xB#4, 0xC#4, 0xD#4, 0xF#4]) ∨
    (fieldOp w = 0x9 ∧ fieldN w ≠ 0x0) ∨
    (fieldOp w = 0xE ∧ fieldKk w ∉ [0x9E#8, 0xA1#8]) ∨
    (fieldOp w = 0xF ∧ fieldKk w ∉ [0x07#8, 0x0A#8, 0x15#8, 0x18#8, 0x1E#8, 0x29#8, 0x33#8, 0x55#8, 0x65#8])

/-! ## The instruction tick (40_fetch_decode_cycle.md) -/

/-- Fetch is big-endian: the byte at `pc` is the high byte of the word, the byte at `pc + 1` the low byte, at any `pc` up to
4094, odd or even (20_memory.md R64, R67). -/
def Obligations.FetchIsBigEndian : Prop :=
  ∀ s : State, s.pc.toNat ≤ 4094 → ∃ w : Word, s.fetch = some w ∧
    w.extractLsb' 8 8 = Memory.read s.mem s.pc.toNat ∧ w.extractLsb' 0 8 = Memory.read s.mem (s.pc.toNat + 1)

/-- When the bytes at `pc` decode to `i`, the step is `exec i` at the state with the inputs sampled, `IR` the word and `pc`
advanced by 2 (`sampled`, `advance`), with the end of the tick around it (`endTick`: `IR` and the model's own fields only);
a fault or refusal passes through. -/
def Obligations.StepRunsTheDecodedInstruction : Prop :=
  ∀ (s : State) (w : Word) (i : Instr), s.Fetches w i →
    step s = endOfTick (exec i (s.sampled.advance w)) ∧
    (s.sampled.advance w).pc = s.pc + 2 ∧ (s.sampled.advance w).ir = w ∧
    UnchangedExcept [.pc, .ir, .env] s (s.sampled.advance w) ∧
    ∀ t : State, endOfTick (.next t) = .next t.endTick ∧ UnchangedExcept [.ir, .env] t t.endTick

/-- The fetch bound: `pc > 4094` raises `OutOfBounds` with `pc` itself as the recorded address and changes nothing else. That
the record holds `pc` is the spec's decision D22, that `pc` stays D4. -/
def Obligations.FetchAbove4094Raises : Prop :=
  ∀ s : State, s.Ready → 4094 < s.pc.toNat → ∃ t : State, step s = .next t ∧
    t.fault.kind = .outOfBounds ∧ t.fault.pc0 = s.pc ∧ t.fault.addr = s.pc ∧ UnchangedExcept [.fault, .ir, .env] s t

/-- A word of no row raises `InvalidInstruction`, reported with the raw word, and changes nothing else; that `pc` stays is the
spec's decision D4. -/
def Obligations.InvalidWordRaises : Prop :=
  ∀ s : State, s.Ready → s.pc.toNat ≤ 4094 → decode (Memory.readWord s.mem s.pc.toNat) = none → ∃ t : State, step s = .next t ∧
    t.fault.kind = .invalidInstruction ∧ t.fault.pc0 = s.pc ∧ t.fault.ir = Memory.readWord s.mem s.pc.toNat ∧
    UnchangedExcept [.fault, .ir, .env] s t

/-- While `WAIT = 1` an instruction tick changes nothing (the transient `IR` and the model's own fields apart); that the block
ignores the tick is the spec's decision D23. -/
def Obligations.WaitingTickChangesNothing : Prop :=
  ∀ s : State, s.env.inbox = [] → s.fault.kind = .none → s.wait = true → ∃ t : State, step s = .next t ∧
    UnchangedExcept [.ir, .env] s t

/-- An instruction tick given to a halted core stops the machine with the record of the fault (60_exceptions.md R263: "a model
should treat it as a fault outcome"; log 8 is the model's choice that this tick, not the raising one, is that outcome). -/
def Obligations.HaltedTickStops : Prop :=
  ∀ s : State, s.env.inbox = [] →
    (s.fault.kind = .outOfBounds → step s = .fault (.outOfBounds s.fault.pc0 s.fault.ir s.fault.addr)) ∧
    (s.fault.kind = .invalidInstruction → step s = .fault (.invalidInstruction s.fault.pc0 s.fault.ir)) ∧
    (s.fault.kind = .stackOverflow → step s = .fault (.stackOverflow s.fault.pc0 s.fault.ir)) ∧
    (s.fault.kind = .stackUnderflow → step s = .fault (.stackUnderflow s.fault.pc0 s.fault.ir))

/-- Each instruction answers a next state in every state, within its tick (40_fetch_decode_cycle.md R127). For the six forms that
can raise (2nnn, 00EE, Dxyn, Fx33, Fx55, Fx65) this holds by the model's choice of log 8: the raise is itself a next state, the
halted one. By 60_exceptions.md R263 and 70_reset_and_hazards.md R315 that fault halts the core and ends the run. -/
def Obligations.EveryInstructionAnswersNext : Prop :=
  ∀ (i : Instr) (s : State), ∃ t : State, exec i s = .next t ∧ t.env = s.env ∧ t.ir = s.ir

/-! ## Control transfer and skips (41_control_flow.md) -/

/-- 0nnn is a no-op, for every `nnn` but 0x0E0 and 0x0EE. -/
def Obligations.SysDoesNothing : Prop :=
  ∀ (nnn : Imm12) (s : State),
    (nnn ≠ 0x0E0 → nnn ≠ 0x0EE → decode (0x0#4 ++ nnn) = some (.sys nnn)) ∧ exec (.sys nnn) s = .next s

/-- 1nnn. -/
def Obligations.JumpLoadsTarget : Prop :=
  ∀ (nnn : Imm12) (s : State), decode (0x1#4 ++ nnn) = some (.jp nnn) ∧
    ∃ t : State, exec (.jp nnn) s = .next t ∧ t.pc.toNat = nnn.toNat ∧ UnchangedExcept [.pc] s t

/-- Bnnn: the sum with `V[0]`, not reduced to 12 bits and never wrapping at 16. -/
def Obligations.JumpV0AddsRegisterZero : Prop :=
  ∀ (nnn : Imm12) (s : State), decode (0xB#4 ++ nnn) = some (.jpV0 nnn) ∧
    ∃ t : State, exec (.jpV0 nnn) s = .next t ∧ t.pc.toNat = nnn.toNat + (s.reg 0).toNat ∧ UnchangedExcept [.pc] s t

/-- 2nnn: the advanced `pc` is pushed and `pc` loaded; with the stack full, `StackOverflow` and nothing else. The layout of the
record and the `pc` put back are the spec's decisions D5 and D4. -/
def Obligations.CallPushesReturnAddress : Prop :=
  ∀ (nnn : Imm12) (s : State), decode (0x2#4 ++ nnn) = some (.call nnn) ∧
    (s.sp.val < 16 → ∃ t : State, exec (.call nnn) s = .next t ∧
      t.sp.val = s.sp.val + 1 ∧ (∀ j : Fin 16, t.stk[j] = if j.val = s.sp.val then s.pc else s.stk[j]) ∧
      t.pc.toNat = nnn.toNat ∧ UnchangedExcept [.stack, .pc] s t) ∧
    (s.sp.val = 16 → ∃ t : State, exec (.call nnn) s = .next t ∧ RaisedHere .stackOverflow s t)

/-- 00EE: the newest return address is popped into `pc` and stays as a dead entry; with the stack empty, `StackUnderflow` and
nothing else. The layout of the record and the `pc` put back are the spec's decisions D5 and D4. -/
def Obligations.ReturnPopsIntoPc : Prop :=
  ∀ s : State, decode 0x00EE = some .ret ∧
    (∀ j : Fin 16, s.sp.val = j.val + 1 → ∃ t : State, exec .ret s = .next t ∧
      t.sp.val = j.val ∧ t.pc = s.stk[j] ∧ (∀ k : Fin 16, t.stk[k] = s.stk[k]) ∧ UnchangedExcept [.stack, .pc] s t) ∧
    (s.sp.val = 0 → ∃ t : State, exec .ret s = .next t ∧ RaisedHere .stackUnderflow s t)

/-- A call and, from any `pc`, the return: `pc` is back at the instruction after the call and the stack as deep as before, at
every depth up to the capacity (vector S5). -/
def Obligations.CallThenReturnComesBack : Prop :=
  ∀ (nnn : Imm12) (s : State) (elsewhere : Word), s.sp.val < 16 →
    ∃ t u : State, exec (.call nnn) s = .next t ∧ exec .ret (t.setPc elsewhere) = .next u ∧
      u.pc = s.pc ∧ u.sp = s.sp ∧ UnchangedExcept [.stack] s u

/-- 3xkk and 4xkk. -/
def Obligations.SkipsOnImmediate : Prop :=
  ∀ (x : Nibble) (kk : Byte) (s : State),
    decode (0x3#4 ++ x ++ kk) = some (.seVxKk x kk) ∧ decode (0x4#4 ++ x ++ kk) = some (.sneVxKk x kk) ∧
    (∃ t : State, exec (.seVxKk x kk) s = .next t ∧
      t.pc = (if s.reg x = kk then s.pc + 2 else s.pc) ∧ UnchangedExcept [.pc] s t) ∧
    (∃ t : State, exec (.sneVxKk x kk) s = .next t ∧
      t.pc = (if s.reg x ≠ kk then s.pc + 2 else s.pc) ∧ UnchangedExcept [.pc] s t)

/-- 5xy0 and 9xy0. -/
def Obligations.SkipsOnRegisters : Prop :=
  ∀ (x y : Nibble) (s : State),
    decode (0x5#4 ++ x ++ y ++ 0x0#4) = some (.seVxVy x y) ∧ decode (0x9#4 ++ x ++ y ++ 0x0#4) = some (.sneVxVy x y) ∧
    (∀ n : Nibble, n ≠ 0 → decode (0x5#4 ++ x ++ y ++ n) = none ∧ decode (0x9#4 ++ x ++ y ++ n) = none) ∧
    (∃ t : State, exec (.seVxVy x y) s = .next t ∧
      t.pc = (if s.reg x = s.reg y then s.pc + 2 else s.pc) ∧ UnchangedExcept [.pc] s t) ∧
    (∃ t : State, exec (.sneVxVy x y) s = .next t ∧
      t.pc = (if s.reg x ≠ s.reg y then s.pc + 2 else s.pc) ∧ UnchangedExcept [.pc] s t)

/-- Ex9E and ExA1, for every level of the keys; that a number of 16 or more names no key and is not pressed is the spec's
decision D9. -/
def Obligations.SkipsOnKeys : Prop :=
  ∀ (x : Nibble) (s : State),
    decode (0xE#4 ++ x ++ 0x9E#8) = some (.skp x) ∧ decode (0xE#4 ++ x ++ 0xA1#8) = some (.sknp x) ∧
    (∃ t : State, exec (.skp x) s = .next t ∧
      t.pc = (if (s.reg x).toNat ≤ 15 ∧ s.env.keys.getLsbD (s.reg x).toNat = true then s.pc + 2 else s.pc) ∧
      UnchangedExcept [.pc] s t) ∧
    (∃ t : State, exec (.sknp x) s = .next t ∧
      t.pc = (if (s.reg x).toNat ≤ 15 ∧ s.env.keys.getLsbD (s.reg x).toNat = true then s.pc else s.pc + 2) ∧
      UnchangedExcept [.pc] s t)

/-! ## Loads, arithmetic, logic, shifts, random (42_load_alu.md) -/

/-- 6xkk: the register holds `kk` and every other register is unchanged, for every register, `V[0xF]` too (vector S1). -/
def Obligations.LoadImmediate : Prop :=
  ∀ (x : Nibble) (kk : Byte) (s : State), decode (0x6#4 ++ x ++ kk) = some (.ldVxKk x kk) ∧
    ∃ t : State, exec (.ldVxKk x kk) s = .next t ∧ t.reg x = kk ∧ RegsExcept [x] s t ∧ UnchangedExcept [.regs] s t

/-- 7xkk: modulo 256, and no flag: only `V[x]` is written. -/
def Obligations.AddImmediateWraps : Prop :=
  ∀ (x : Nibble) (kk : Byte) (s : State), decode (0x7#4 ++ x ++ kk) = some (.addVxKk x kk) ∧
    ∃ t : State, exec (.addVxKk x kk) s = .next t ∧ (t.reg x).toNat = ((s.reg x).toNat + kk.toNat) % 256 ∧
      RegsExcept [x] s t ∧ UnchangedExcept [.regs] s t

/-- 8xy0, 8xy1, 8xy2, 8xy3: only `V[x]` is written, no flag. -/
def Obligations.CopyAndLogic : Prop :=
  ∀ (x y : Nibble) (s : State),
    decode (0x8#4 ++ x ++ y ++ 0x0#4) = some (.ldVxVy x y) ∧ decode (0x8#4 ++ x ++ y ++ 0x1#4) = some (.orVxVy x y) ∧
    decode (0x8#4 ++ x ++ y ++ 0x2#4) = some (.andVxVy x y) ∧ decode (0x8#4 ++ x ++ y ++ 0x3#4) = some (.xorVxVy x y) ∧
    (∃ t : State, exec (.ldVxVy x y) s = .next t ∧ t.reg x = s.reg y ∧ RegsExcept [x] s t ∧ UnchangedExcept [.regs] s t) ∧
    (∃ t : State, exec (.orVxVy x y) s = .next t ∧ t.reg x = s.reg x ||| s.reg y ∧
      RegsExcept [x] s t ∧ UnchangedExcept [.regs] s t) ∧
    (∃ t : State, exec (.andVxVy x y) s = .next t ∧ t.reg x = s.reg x &&& s.reg y ∧
      RegsExcept [x] s t ∧ UnchangedExcept [.regs] s t) ∧
    (∃ t : State, exec (.xorVxVy x y) s = .next t ∧ t.reg x = s.reg x ^^^ s.reg y ∧
      RegsExcept [x] s t ∧ UnchangedExcept [.regs] s t)

/-- The laws of 8xy4, 8xy5, 8xy6, 8xy7 and 8xyE for a destination other than the flag register (for that one see
FlagRegisterAsDestination): results modulo 256, carry, no-borrow and shifted-out flags, in exact arithmetic. `y` may be `x`
or F. -/
def Obligations.ArithmeticWritesResultAndFlag : Prop :=
  ∀ (x y : Nibble) (s : State), x ≠ 0xF →
    (∃ t : State, exec (.addVxVy x y) s = .next t ∧ (t.reg x).toNat = ((s.reg x).toNat + (s.reg y).toNat) % 256 ∧
      t.reg 0xF = (if (s.reg x).toNat + (s.reg y).toNat > 255 then 1 else 0) ∧
      RegsExcept [x, 0xF] s t ∧ UnchangedExcept [.regs] s t) ∧
    (∃ t : State, exec (.sub x y) s = .next t ∧
      (t.reg x).toNat = (if (s.reg x).toNat ≥ (s.reg y).toNat then (s.reg x).toNat - (s.reg y).toNat
        else (s.reg x).toNat + 256 - (s.reg y).toNat) ∧
      t.reg 0xF = (if (s.reg x).toNat ≥ (s.reg y).toNat then 1 else 0) ∧
      RegsExcept [x, 0xF] s t ∧ UnchangedExcept [.regs] s t) ∧
    (∃ t : State, exec (.subn x y) s = .next t ∧
      (t.reg x).toNat = (if (s.reg y).toNat ≥ (s.reg x).toNat then (s.reg y).toNat - (s.reg x).toNat
        else (s.reg y).toNat + 256 - (s.reg x).toNat) ∧
      t.reg 0xF = (if (s.reg y).toNat ≥ (s.reg x).toNat then 1 else 0) ∧
      RegsExcept [x, 0xF] s t ∧ UnchangedExcept [.regs] s t) ∧
    (∃ t : State, exec (.shr x y) s = .next t ∧ (t.reg x).toNat = (s.reg x).toNat / 2 ∧
      (t.reg 0xF).toNat = (s.reg x).toNat % 2 ∧ RegsExcept [x, 0xF] s t ∧ UnchangedExcept [.regs] s t) ∧
    (∃ t : State, exec (.shl x y) s = .next t ∧ (t.reg x).toNat = (s.reg x).toNat * 2 % 256 ∧
      (t.reg 0xF).toNat = (s.reg x).toNat / 128 ∧ RegsExcept [x, 0xF] s t ∧ UnchangedExcept [.regs] s t)

/-- The same five with `x = F`, where result and flag hit one register: 8xy4 leaves the carry, the other four leave the
result. This is the spec's decision D7 (42_load_alu.md R183; log 14). -/
def Obligations.FlagRegisterAsDestination : Prop :=
  ∀ (y : Nibble) (s : State),
    (∃ t : State, exec (.addVxVy 0xF y) s = .next t ∧
      t.reg 0xF = (if (s.reg 0xF).toNat + (s.reg y).toNat > 255 then 1 else 0) ∧
      RegsExcept [0xF] s t ∧ UnchangedExcept [.regs] s t) ∧
    (∃ t : State, exec (.sub 0xF y) s = .next t ∧
      (t.reg 0xF).toNat = ((s.reg 0xF).toNat + 256 - (s.reg y).toNat) % 256 ∧
      RegsExcept [0xF] s t ∧ UnchangedExcept [.regs] s t) ∧
    (∃ t : State, exec (.subn 0xF y) s = .next t ∧
      (t.reg 0xF).toNat = ((s.reg y).toNat + 256 - (s.reg 0xF).toNat) % 256 ∧
      RegsExcept [0xF] s t ∧ UnchangedExcept [.regs] s t) ∧
    (∃ t : State, exec (.shr 0xF y) s = .next t ∧ (t.reg 0xF).toNat = (s.reg 0xF).toNat / 2 ∧
      RegsExcept [0xF] s t ∧ UnchangedExcept [.regs] s t) ∧
    (∃ t : State, exec (.shl 0xF y) s = .next t ∧ (t.reg 0xF).toNat = (s.reg 0xF).toNat * 2 % 256 ∧
      RegsExcept [0xF] s t ∧ UnchangedExcept [.regs] s t)

/-- The words of 8xy4 to 8xy7 and 8xyE, any `y`; the `y` field of the two shifts is otherwise ignored (30_encoding.md R98). -/
def Obligations.ShiftsIgnoreSecondRegister : Prop :=
  ∀ (x y z : Nibble) (s : State),
    decode (0x8#4 ++ x ++ y ++ 0x4#4) = some (.addVxVy x y) ∧ decode (0x8#4 ++ x ++ y ++ 0x5#4) = some (.sub x y) ∧
    decode (0x8#4 ++ x ++ y ++ 0x6#4) = some (.shr x y) ∧ decode (0x8#4 ++ x ++ y ++ 0x7#4) = some (.subn x y) ∧
    decode (0x8#4 ++ x ++ y ++ 0xE#4) = some (.shl x y) ∧
    exec (.shr x y) s = exec (.shr x z) s ∧ exec (.shl x y) s = exec (.shl x z) s

/-- Cxkk, whatever random byte the host presents (the random input is the spec's decision D10). -/
def Obligations.RandomByteIsMasked : Prop :=
  ∀ (x : Nibble) (kk : Byte) (s : State), decode (0xC#4 ++ x ++ kk) = some (.rnd x kk) ∧
    ∃ t : State, exec (.rnd x kk) s = .next t ∧ t.reg x = s.env.rnd &&& kk ∧
      RegsExcept [x] s t ∧ UnchangedExcept [.regs] s t

/-! ## Index register and memory (43_index_memory.md) -/

/-- Annn and Fx29: all 8 bits of `V[x]` enter the product. -/
def Obligations.IndexLoads : Prop :=
  ∀ (nnn : Imm12) (x : Nibble) (s : State),
    decode (0xA#4 ++ nnn) = some (.ldINnn nnn) ∧ decode (0xF#4 ++ x ++ 0x29#8) = some (.ldFVx x) ∧
    (∃ t : State, exec (.ldINnn nnn) s = .next t ∧ t.i.toNat = nnn.toNat ∧ UnchangedExcept [.index] s t) ∧
    (∃ t : State, exec (.ldFVx x) s = .next t ∧ t.i.toNat = 0x050 + 5 * (s.reg x).toNat ∧ UnchangedExcept [.index] s t)

/-- Fx1E: no flag and no fault, whatever the sum; that it is kept modulo 65536 is the spec's decision D8 (log 14). -/
def Obligations.AddToIndexWraps : Prop :=
  ∀ (x : Nibble) (s : State), decode (0xF#4 ++ x ++ 0x1E#8) = some (.addIVx x) ∧
    ∃ t : State, exec (.addIVx x) s = .next t ∧ t.i.toNat = (s.i.toNat + (s.reg x).toNat) % 65536 ∧
      UnchangedExcept [.index] s t

/-- Fx33 in bounds: hundreds, tens, ones at `I`, `I + 1`, `I + 2`; no other byte and nothing else changes, `I` neither. -/
def Obligations.BcdStoresThreeDigits : Prop :=
  ∀ (x : Nibble) (s : State), decode (0xF#4 ++ x ++ 0x33#8) = some (.ldBVx x) ∧
    (s.i.toNat + 2 ≤ 4095 → ∃ t : State, exec (.ldBVx x) s = .next t ∧
      (Memory.read t.mem (s.ea 0)).toNat = (s.reg x).toNat / 100 ∧
      (Memory.read t.mem (s.ea 1)).toNat = (s.reg x).toNat / 10 % 10 ∧
      (Memory.read t.mem (s.ea 2)).toNat = (s.reg x).toNat % 10 ∧
      MemExcept (s.ea 0) 3 s t ∧ UnchangedExcept [.mem] s t)

/-- Fx55 in bounds: `V[j]` at `I + j` for `j` in 0 to `x`; no other byte and nothing else changes, `I` neither. -/
def Obligations.StoreRegistersToMemory : Prop :=
  ∀ (x : Nibble) (s : State), decode (0xF#4 ++ x ++ 0x55#8) = some (.ldMemVx x) ∧
    (s.i.toNat + x.toNat ≤ 4095 → ∃ t : State, exec (.ldMemVx x) s = .next t ∧
      (∀ j : Nibble, j.toNat ≤ x.toNat → Memory.read t.mem (s.ea j.toNat) = s.reg j) ∧
      MemExcept (s.ea 0) (x.toNat + 1) s t ∧ UnchangedExcept [.mem] s t)

/-- Fx65 in bounds: `V[j]` from `I + j` for `j` in 0 to `x`; the registers above `x`, `I` and all of memory are unchanged. -/
def Obligations.LoadRegistersFromMemory : Prop :=
  ∀ (x : Nibble) (s : State), decode (0xF#4 ++ x ++ 0x65#8) = some (.ldVxMem x) ∧
    (s.i.toNat + x.toNat ≤ 4095 → ∃ t : State, exec (.ldVxMem x) s = .next t ∧
      (∀ j : Nibble, t.reg j = if j.toNat ≤ x.toNat then Memory.read s.mem (s.ea j.toNat) else s.reg j) ∧
      UnchangedExcept [.regs] s t)

/-- Fx33, Fx55, Fx65 and Dxyn out of bounds: `OutOfBounds` and nothing else: no byte, no register, no pixel. The recorded
address max(I, 4096), and that nothing lands and `pc` is put back, are the spec's decisions D22 and D4. -/
def Obligations.DataAccessOutOfBoundsRaises : Prop :=
  ∀ (x y n : Nibble) (s : State),
    (4095 < s.i.toNat + 2 → ∃ t : State, exec (.ldBVx x) s = .next t ∧
      RaisedHere .outOfBounds s t ∧ t.fault.addr.toNat = max s.i.toNat 4096) ∧
    (4095 < s.i.toNat + x.toNat → ∃ t : State, exec (.ldMemVx x) s = .next t ∧
      RaisedHere .outOfBounds s t ∧ t.fault.addr.toNat = max s.i.toNat 4096) ∧
    (4095 < s.i.toNat + x.toNat → ∃ t : State, exec (.ldVxMem x) s = .next t ∧
      RaisedHere .outOfBounds s t ∧ t.fault.addr.toNat = max s.i.toNat 4096) ∧
    (0 < n.toNat → 4095 < s.i.toNat + n.toNat - 1 → ∃ t : State, exec (.drw x y n) s = .next t ∧
      RaisedHere .outOfBounds s t ∧ t.fault.addr.toNat = max s.i.toNat 4096)

/-- An instruction stored by Fx55 is what the next fetch from there reads: the byte at the lower address is the high byte of
the word (20_memory.md R65, R75, which the spec marks as derived). -/
def Obligations.StoredWordIsFetched : Prop :=
  ∀ (x : Nibble) (s : State), s.i.toNat + x.toNat ≤ 4095 → 1 ≤ x.toNat →
    ∃ t : State, exec (.ldMemVx x) s = .next t ∧ (t.setPc s.i).fetch = some (s.reg 0 ++ s.reg 1)

/-! ## Display (44_display.md) -/

/-- 00E0: every pixel 0, `V[0xF]` not written. -/
def Obligations.ClearZeroesDisplay : Prop :=
  ∀ s : State, decode 0x00E0 = some .cls ∧
    ∃ t : State, exec .cls s = .next t ∧ (∀ (px : Fin 64) (py : Fin 32), pixel t.disp px py = false) ∧
      UnchangedExcept [.disp] s t

/-- Dxyn with its bytes in bounds: a pixel a set sprite bit lands on is inverted, every other pixel keeps its value,
coordinates wrap, and `V[0xF]` is 1 exactly when some pixel went from 1 to 0. The loop of R221 gives the same as all bits at
once (R225). With `x = F` or `y = F` the coordinate is the old `V[0xF]` (operand sampling, D7). `Dxy0`, whatever `I`
holds, draws nothing and writes 0 to `V[0xF]` (R224, D19). -/
def Obligations.DrawXorsSprite : Prop :=
  ∀ (x y n : Nibble) (s : State), decode (0xD#4 ++ x ++ y ++ n) = some (.drw x y n) ∧
    (n.toNat = 0 ∨ s.i.toNat + n.toNat - 1 ≤ 4095 → ∃ t : State, exec (.drw x y n) s = .next t ∧
      (∀ (px : Fin 64) (py : Fin 32),
        (SpriteCovers s x y n px py → pixel t.disp px py = !pixel s.disp px py) ∧
        (¬ SpriteCovers s x y n px py → pixel t.disp px py = pixel s.disp px py)) ∧
      ((∃ (px : Fin 64) (py : Fin 32), pixel s.disp px py = true ∧ pixel t.disp px py = false) → t.reg 0xF = 1) ∧
      ((∀ (px : Fin 64) (py : Fin 32), pixel s.disp px py = true → pixel t.disp px py = true) → t.reg 0xF = 0) ∧
      RegsExcept [0xF] s t ∧ UnchangedExcept [.regs, .disp] s t)

/-- The same sprite twice at the same place gives the display back; on a blank display the first draw reports no collision and
the second reports one when the sprite has a set bit (vector S7). Neither coordinate is in `V[0xF]`, which the first draw
writes. -/
def Obligations.DrawTwiceErases : Prop :=
  ∀ (x y n : Nibble) (s : State), x ≠ 0xF → y ≠ 0xF → s.i.toNat + n.toNat ≤ 4096 →
    ∃ t u : State, exec (.drw x y n) s = .next t ∧ exec (.drw x y n) t = .next u ∧
      (∀ (px : Fin 64) (py : Fin 32), pixel u.disp px py = pixel s.disp px py) ∧
      ((∀ (px : Fin 64) (py : Fin 32), pixel s.disp px py = false) → t.reg 0xF = 0 ∧
        ((∃ (px : Fin 64) (py : Fin 32), SpriteCovers s x y n px py) → u.reg 0xF = 1))

/-- The display output: pixel `(x, y)` is bit `64*y + x` (60_exceptions.md R280; the layout is the spec's decision D16). -/
def Obligations.DisplayOutputIsRowMajor : Prop :=
  ∀ (s : State) (px : Fin 64) (py : Fin 32), s.displayOut.getLsbD (64 * py.val + px.val) = pixel s.disp px py

/-! ## Timers and keys (45_timers_keys.md, 60_exceptions.md) -/

/-- Fx07, Fx15, Fx18. -/
def Obligations.TimerInstructions : Prop :=
  ∀ (x : Nibble) (s : State),
    decode (0xF#4 ++ x ++ 0x07#8) = some (.ldVxDt x) ∧ decode (0xF#4 ++ x ++ 0x15#8) = some (.ldDtVx x) ∧
    decode (0xF#4 ++ x ++ 0x18#8) = some (.ldStVx x) ∧
    (∃ t : State, exec (.ldVxDt x) s = .next t ∧ t.reg x = s.dt ∧ RegsExcept [x] s t ∧ UnchangedExcept [.regs] s t) ∧
    (∃ t : State, exec (.ldDtVx x) s = .next t ∧ t.dt = s.reg x ∧ UnchangedExcept [.dt] s t) ∧
    (∃ t : State, exec (.ldStVx x) s = .next t ∧ t.st = s.reg x ∧
      (t.soundOn = true ↔ s.reg x ≠ 0) ∧ UnchangedExcept [.st] s t)

/-- Fx0A enters the wait state and writes no register; `pc` keeps the advanced value. That the target register is latched in
`WREG` is the spec's decision D18. -/
def Obligations.WaitForKeySuspends : Prop :=
  ∀ (x : Nibble) (s : State), decode (0xF#4 ++ x ++ 0x0A#8) = some (.ldVxK x) ∧
    ∃ t : State, exec (.ldVxK x) s = .next t ∧ t.wait = true ∧ t.wreg = x ∧ UnchangedExcept [.wait] s t

/-- A key press ends a wait by writing the key number, high nibble 0, to `V[WREG]`; without a wait, or in a halted core, it is
dropped (60_exceptions.md R282; the spec's decisions D17 and D18; log 14). -/
def Obligations.KeyPressEndsWait : Prop :=
  ∀ (k : Nibble) (rest : List HostEvent) (s : State), s.env.inbox = .keyPress k :: rest →
    ∃ t : State, step s = .next t ∧ t.env = { s.env with inbox := rest } ∧
      (s.fault.kind = .none → s.wait = true →
        (t.reg s.wreg).toNat = k.toNat ∧ RegsExcept [s.wreg] s t ∧ t.wait = false ∧ UnchangedExcept [.regs, .wait, .env] s t) ∧
      (s.fault.kind ≠ .none ∨ s.wait = false → UnchangedExcept [.env] s t)

/-- A timer tick takes 1 off each timer that is not 0, in a wait too, and nothing else; in a halted core it does nothing. -/
def Obligations.TimerTickDecrements : Prop :=
  ∀ (rest : List HostEvent) (s : State), s.env.inbox = .timerTick :: rest →
    ∃ t : State, step s = .next t ∧ t.env = { s.env with inbox := rest } ∧
      (s.fault.kind = .none →
        t.dt.toNat = s.dt.toNat - 1 ∧ t.st.toNat = s.st.toNat - 1 ∧ UnchangedExcept [.dt, .st, .env] s t) ∧
      (s.fault.kind ≠ .none → UnchangedExcept [.env] s t)

/-- `DT` never rises in a step but by an Fx15 that the step runs (60_exceptions.md R276, 45_timers_keys.md R241). -/
def Obligations.DelayTimerRisesOnlyByItsLoad : Prop :=
  ∀ s t : State, step s = .next t → s.dt.toNat < t.dt.toNat →
    ∃ (w : Word) (x : Nibble), s.Fetches w (.ldDtVx x) ∧ t.dt = s.reg x

/-! ## Reset and loading (70_reset_and_hazards.md) -/

/-- What reset leaves (10_state.md R41; `WAIT` and `FAULT` are the spec's decision D13): every field the spec gives a value.
The font's bytes are the spec's general-knowledge table (U10; log 9). -/
def Obligations.ResetValues : Prop :=
  (∀ r : Nibble, State.reset.reg r = 0) ∧ State.reset.i = 0 ∧ State.reset.pc = 0x200 ∧
  Memory.readList State.reset.mem 0x050 80 = fontTable ∧ fontTable.length = 80 ∧
  (∀ a : Nat, ¬ (0x050 ≤ a ∧ a ≤ 0x09F) → Memory.read State.reset.mem a = 0) ∧
  (∀ j : Fin 16, State.reset.stk[j] = 0) ∧ State.reset.sp = 0 ∧ State.reset.dt = 0 ∧ State.reset.st = 0 ∧
  (∀ (px : Fin 64) (py : Fin 32), pixel State.reset.disp px py = false) ∧
  State.reset.wait = false ∧ State.reset.fault.kind = .none

/-- `Reset` in any state, waiting and halted too, gives the reset state again (the spec's decision D13); the model's own tick
counter and the events still to come go on (log 13). -/
def Obligations.ResetFromAnyState : Prop :=
  ∀ (rest : List HostEvent) (s : State), s.env.inbox = .reset :: rest →
    ∃ t : State, step s = .next t ∧ UnchangedExcept [.ir, .wait, .fault, .env] State.reset t ∧
      t.wait = false ∧ t.fault.kind = .none ∧ t.env.inbox = rest ∧ t.env.started = false

/-- `Load`: the bytes from 0x200 upward, nothing else; one that does not fit changes nothing; after the first instruction tick
it has no move (70_reset_and_hazards.md R304, R305; the spec's decision D14; log 11). -/
def Obligations.LoadCopiesProgram : Prop :=
  ∀ (bytes : List Byte) (rest : List HostEvent) (s : State), s.env.inbox = .load bytes :: rest →
    (s.env.started = true → step s = .refused .loadAfterStart) ∧
    (s.env.started = false → bytes.length ≤ 3584 → ∃ t : State, step s = .next t ∧
      Memory.readList t.mem 0x200 bytes.length = bytes ∧ MemExcept 0x200 bytes.length s t ∧ UnchangedExcept [.mem, .env] s t) ∧
    (s.env.started = false → 3584 < bytes.length → ∃ t : State, step s = .next t ∧ UnchangedExcept [.env] s t)

/-- A run that has reached a jump to itself stays there: an instruction tick changes nothing (the transient `IR` and the model's
own fields apart), waiting or not; a timer tick changes the timers alone; a key press leaves `pc` there too
(41_control_flow.md R142, 70_reset_and_hazards.md R315; the end of a run is the spec's decision D21, log 14). -/
def Obligations.SelfJumpChangesNothing : Prop :=
  ∀ (s : State) (a : Word), s.AtSelfJump a →
    (s.env.inbox = [] → ∃ t : State, step s = .next t ∧ t.AtSelfJump a ∧ UnchangedExcept [.ir, .env] s t) ∧
    (∀ rest : List HostEvent, s.env.inbox = .timerTick :: rest → ∃ t : State, step s = .next t ∧ t.AtSelfJump a ∧
      UnchangedExcept [.dt, .st, .env] s t) ∧
    (∀ (k : Nibble) (rest : List HostEvent), s.env.inbox = .keyPress k :: rest → ∃ t : State, step s = .next t ∧ t.AtSelfJump a)

/-! ## Whole-machine rules -/

/-- An instruction that raises a fault changes nothing but the record, and `pc` is put back to its address (60_exceptions.md
R262; the spec's decision D4). -/
def Obligations.FaultingInstructionChangesNothing : Prop :=
  ∀ (i : Instr) (s t : State), s.fault.kind = .none → exec i s = .next t → t.fault.kind ≠ .none →
    RaisedHere t.fault.kind s t

/-- Which instruction raises what, and exactly when; the others raise nothing (60_exceptions.md R264). -/
def Obligations.FaultsAreTheListedOnes : Prop :=
  ∀ (i : Instr) (s t : State), s.fault.kind = .none → exec i s = .next t →
    ((t.fault.kind = .stackOverflow ↔ s.sp.val = 16 ∧ ∃ nnn : Imm12, i = .call nnn) ∧
     (t.fault.kind = .stackUnderflow ↔ s.sp.val = 0 ∧ i = .ret) ∧
     (t.fault.kind = .outOfBounds ↔
       (∃ x y n : Nibble, i = .drw x y n ∧ 0 < n.toNat ∧ 4095 < s.i.toNat + n.toNat - 1) ∨
       (∃ x : Nibble, i = .ldBVx x ∧ 4095 < s.i.toNat + 2) ∨
       (∃ x : Nibble, (i = .ldMemVx x ∨ i = .ldVxMem x) ∧ 4095 < s.i.toNat + x.toNat)) ∧
     t.fault.kind ≠ .invalidInstruction)

/-- `V[0xF]` changes only by the six flag writers, or by an instruction whose destination is register F (10_state.md R42). -/
def Obligations.FlagRegisterWriters : Prop :=
  ∀ (i : Instr) (s t : State), exec i s = .next t → t.reg 0xF ≠ s.reg 0xF →
    (∃ x y : Nibble, i = .addVxVy x y ∨ i = .sub x y ∨ i = .shr x y ∨ i = .subn x y ∨ i = .shl x y) ∨
    (∃ x y n : Nibble, i = .drw x y n) ∨
    (∃ kk : Byte, i = .ldVxKk 0xF kk ∨ i = .addVxKk 0xF kk ∨ i = .rnd 0xF kk) ∨
    (∃ y : Nibble, i = .ldVxVy 0xF y ∨ i = .orVxVy 0xF y ∨ i = .andVxVy 0xF y ∨ i = .xorVxVy 0xF y) ∨
    i = .ldVxDt 0xF ∨ i = .ldVxMem 0xF

/-- A byte of memory changes only by Fx33 or Fx55, inside the range it stores to, and below 4096 (20_memory.md R62, R68). -/
def Obligations.MemoryWriters : Prop :=
  ∀ (i : Instr) (s t : State) (a : Nat), exec i s = .next t → Memory.read t.mem a ≠ Memory.read s.mem a →
    s.i.toNat ≤ a ∧ a < 4096 ∧
      ∃ x : Nibble, (i = .ldBVx x ∧ a ≤ s.i.toNat + 2) ∨ (i = .ldMemVx x ∧ a ≤ s.i.toNat + x.toNat)

/-- The call stack changes only by 2nnn and 00EE (10_state.md R31); no entry changes but the one a call writes at the top. -/
def Obligations.StackWriters : Prop :=
  ∀ (i : Instr) (s t : State), exec i s = .next t →
    (t.sp ≠ s.sp → i = .ret ∨ ∃ nnn : Imm12, i = .call nnn) ∧
    (∀ j : Fin 16, t.stk[j] ≠ s.stk[j] → j.val = s.sp.val ∧ ∃ nnn : Imm12, i = .call nnn)

/-- `pc` changes after the fetch only by the jumps, call, return and skips, or by being put back on a fault; a skip adds
exactly 2 (10_state.md R26). -/
def Obligations.ProgramCounterWriters : Prop :=
  ∀ (i : Instr) (s t : State), s.fault.kind = .none → exec i s = .next t → t.pc ≠ s.pc →
    t.fault.kind ≠ .none ∨ i = .ret ∨ (∃ nnn : Imm12, i = .jp nnn ∨ i = .call nnn ∨ i = .jpV0 nnn) ∨
    (t.pc = s.pc + 2 ∧
      ((∃ (x : Nibble) (kk : Byte), i = .seVxKk x kk ∨ i = .sneVxKk x kk) ∨
       (∃ x y : Nibble, i = .seVxVy x y ∨ i = .sneVxVy x y) ∨ (∃ x : Nibble, i = .skp x ∨ i = .sknp x)))

/-- `I` changes only by Annn, Fx1E and Fx29, so that no memory instruction changes it; the display only by 00E0 and Dxyn; `DT`
only by Fx15; `ST` only by Fx18; the wait state only by Fx0A (10_state.md R24, R34, R35, R37, conflict C10). -/
def Obligations.IndexDisplayTimerAndWaitWriters : Prop :=
  ∀ (i : Instr) (s t : State), exec i s = .next t →
    (t.i ≠ s.i → (∃ nnn : Imm12, i = .ldINnn nnn) ∨ (∃ x : Nibble, i = .addIVx x ∨ i = .ldFVx x)) ∧
    (t.disp ≠ s.disp → i = .cls ∨ ∃ x y n : Nibble, i = .drw x y n) ∧
    (t.dt ≠ s.dt → ∃ x : Nibble, i = .ldDtVx x) ∧ (t.st ≠ s.st → ∃ x : Nibble, i = .ldStVx x) ∧
    (t.wait ≠ s.wait ∨ t.wreg ≠ s.wreg → ∃ x : Nibble, i = .ldVxK x)

/-- Only Cxkk reads the random input and only Ex9E and ExA1 read the key levels: two runs of any other instruction that differ
in such an input alone end differing in it alone (60_exceptions.md R281, R284). -/
def Obligations.InputsReachOnlyTheirInstructions : Prop :=
  ∀ (i : Instr) (s t : State), exec i s = .next t →
    (∀ b : Byte, (∀ (x : Nibble) (kk : Byte), i ≠ .rnd x kk) →
      exec i { s with env := { s.env with rnd := b } } = .next { t with env := { t.env with rnd := b } }) ∧
    (∀ ks : BitVec 16, (∀ x : Nibble, i ≠ .skp x ∧ i ≠ .sknp x) →
      exec i { s with env := { s.env with keys := ks } } = .next { t with env := { t.env with keys := ks } })

/-! ## Invariants -/

/-- The reset state meets the three invariants. -/
def Obligations.ResetMeetsInvariants : Prop :=
  State.reset.MemoryCanonical ∧ State.reset.AddressesBounded ∧ State.reset.FaultRecordTrue

/-- Every step keeps the canonical form of memory: rising addresses, all below 4096, no cell equal to its reset contents. -/
def Obligations.StepKeepsMemoryCanonical : Prop :=
  ∀ s t : State, s.MemoryCanonical → step s = .next t → t.MemoryCanonical

/-- Every step keeps `pc` at most 0x10FE and every live return address at most 4096, so that `pc` never wraps at 16 bits
(10_state.md R27, which the spec marks as derived). -/
def Obligations.StepKeepsAddressesBounded : Prop :=
  ∀ s t : State, s.AddressesBounded → step s = .next t → t.AddressesBounded

/-- Every step keeps the fault record true: in a halted core the word it names stands at `pc` and is invalid, or is the
instruction whose fault it is, with the condition of that fault still to be seen (60_exceptions.md R262, R263, R265; the
spec's decisions D4, D5, D6). -/
def Obligations.StepKeepsFaultRecordTrue : Prop :=
  ∀ s t : State, s.FaultRecordTrue → step s = .next t → t.FaultRecordTrue
end

