-- ==== Sys2Proof/Laws/Decode.lean ====
section
/-! SUPPORT. Sys2Proof/Laws/Decode.lean: the fields of a word put together from its fields, for the shapes NNN, XKK and XY of
30_encoding.md R91. -/

namespace Sys2Proof

/-! ## op ++ nnn -/

@[simp] theorem fieldOp_nnn (op : Nibble) (nnn : Imm12) : fieldOp (op ++ nnn) = op := by
  apply BitVec.eq_of_getLsbD_eq
  intro i hi
  unfold fieldOp
  rw [BitVec.getLsbD_extractLsb']
  erw [BitVec.getLsbD_append]
  simp [hi]

@[simp] theorem fieldNnn_nnn (op : Nibble) (nnn : Imm12) : fieldNnn (op ++ nnn) = nnn := by
  apply BitVec.eq_of_getLsbD_eq
  intro i hi
  unfold fieldNnn
  rw [BitVec.getLsbD_extractLsb']
  erw [BitVec.getLsbD_append]
  simp [hi]

/-! ## op ++ x ++ kk -/

@[simp] theorem fieldOp_xkk (op x : Nibble) (kk : Byte) : fieldOp (op ++ x ++ kk) = op := by
  apply BitVec.eq_of_getLsbD_eq
  intro i hi
  unfold fieldOp
  rw [BitVec.getLsbD_extractLsb']
  erw [BitVec.getLsbD_append, BitVec.getLsbD_append]
  have h : 12 + i - 8 - 4 = i := by omega
  simp [hi, h, show ¬ 12 + i < 8 by omega, show ¬ 12 + i - 8 < 4 by omega]

@[simp] theorem fieldX_xkk (op x : Nibble) (kk : Byte) : fieldX (op ++ x ++ kk) = x := by
  apply BitVec.eq_of_getLsbD_eq
  intro i hi
  unfold fieldX
  rw [BitVec.getLsbD_extractLsb']
  erw [BitVec.getLsbD_append, BitVec.getLsbD_append]
  simp [hi]

@[simp] theorem fieldKk_xkk (op x : Nibble) (kk : Byte) : fieldKk (op ++ x ++ kk) = kk := by
  apply BitVec.eq_of_getLsbD_eq
  intro i hi
  unfold fieldKk
  rw [BitVec.getLsbD_extractLsb']
  erw [BitVec.getLsbD_append]
  simp [hi]

/-! ## op ++ x ++ y ++ n -/

@[simp] theorem fieldOp_xyn (op x y n : Nibble) : fieldOp (op ++ x ++ y ++ n) = op := by
  apply BitVec.eq_of_getLsbD_eq
  intro i hi
  unfold fieldOp
  rw [BitVec.getLsbD_extractLsb']
  erw [BitVec.getLsbD_append, BitVec.getLsbD_append, BitVec.getLsbD_append]
  have h : 12 + i - 4 - 4 - 4 = i := by omega
  simp [hi, h, show ¬ 12 + i < 4 by omega, show ¬ 12 + i - 4 < 4 by omega, show ¬ 12 + i - 4 - 4 < 4 by omega]

@[simp] theorem fieldX_xyn (op x y n : Nibble) : fieldX (op ++ x ++ y ++ n) = x := by
  apply BitVec.eq_of_getLsbD_eq
  intro i hi
  unfold fieldX
  rw [BitVec.getLsbD_extractLsb']
  erw [BitVec.getLsbD_append, BitVec.getLsbD_append, BitVec.getLsbD_append]
  have h : 8 + i - 4 - 4 = i := by omega
  simp [hi, h, show ¬ 8 + i < 4 by omega, show ¬ 8 + i - 4 < 4 by omega]

@[simp] theorem fieldY_xyn (op x y n : Nibble) : fieldY (op ++ x ++ y ++ n) = y := by
  apply BitVec.eq_of_getLsbD_eq
  intro i hi
  unfold fieldY
  rw [BitVec.getLsbD_extractLsb']
  erw [BitVec.getLsbD_append, BitVec.getLsbD_append]
  simp [hi]

@[simp] theorem fieldN_xyn (op x y n : Nibble) : fieldN (op ++ x ++ y ++ n) = n := by
  apply BitVec.eq_of_getLsbD_eq
  intro i hi
  unfold fieldN
  rw [BitVec.getLsbD_extractLsb']
  erw [BitVec.getLsbD_append]
  simp [hi]

/-! ## The masks of 30_encoding.md R94 on such words -/

theorem mask_nnn (op : Nibble) (nnn : Imm12) : (op ++ nnn : Word) &&& 0xF000#16 = op ++ 0#12 := by
  apply BitVec.eq_of_getLsbD_eq
  intro i hi
  rw [BitVec.getLsbD_and]
  erw [BitVec.getLsbD_append, BitVec.getLsbD_append]
  interval_cases i <;> simp

theorem mask_xkk (op x : Nibble) (kk : Byte) : (op ++ x ++ kk : Word) &&& 0xF000#16 = op ++ 0#4 ++ 0#8 := by
  apply BitVec.eq_of_getLsbD_eq
  intro i hi
  rw [BitVec.getLsbD_and]
  erw [BitVec.getLsbD_append, BitVec.getLsbD_append, BitVec.getLsbD_append, BitVec.getLsbD_append]
  interval_cases i <;> simp

theorem mask_xkk_sub (op x : Nibble) (kk : Byte) : (op ++ x ++ kk : Word) &&& 0xF0FF#16 = op ++ 0#4 ++ kk := by
  apply BitVec.eq_of_getLsbD_eq
  intro i hi
  rw [BitVec.getLsbD_and]
  erw [BitVec.getLsbD_append, BitVec.getLsbD_append, BitVec.getLsbD_append, BitVec.getLsbD_append]
  interval_cases i <;> simp

theorem mask_xyn (op x y n : Nibble) : (op ++ x ++ y ++ n : Word) &&& 0xF000#16 = op ++ 0#4 ++ 0#4 ++ 0#4 := by
  apply BitVec.eq_of_getLsbD_eq
  intro i hi
  rw [BitVec.getLsbD_and]
  erw [BitVec.getLsbD_append, BitVec.getLsbD_append, BitVec.getLsbD_append, BitVec.getLsbD_append, BitVec.getLsbD_append, BitVec.getLsbD_append]
  interval_cases i <;> simp

theorem mask_xyn_sub (op x y n : Nibble) : (op ++ x ++ y ++ n : Word) &&& 0xF00F#16 = op ++ 0#4 ++ 0#4 ++ n := by
  apply BitVec.eq_of_getLsbD_eq
  intro i hi
  rw [BitVec.getLsbD_and]
  erw [BitVec.getLsbD_append, BitVec.getLsbD_append, BitVec.getLsbD_append, BitVec.getLsbD_append, BitVec.getLsbD_append, BitVec.getLsbD_append]
  interval_cases i <;> simp

end Sys2Proof
end

