-- ==== Sys2Proof/Laws/State.lean ====
section
/-! SUPPORT. Sys2Proof/Laws/State.lean: for each update of the state one lemma per field, so that no later proof unfolds a
record update; and a register read after each update. -/

namespace Sys2Proof.Machine

/-! ### setReg -/

@[simp] theorem State.setReg_v (s : State) (r : Nibble) (b : Byte) : (s.setReg r b).v = s.v.set r.toNat b r.isLt := rfl
@[simp] theorem State.setReg_i (s : State) (r : Nibble) (b : Byte) : (s.setReg r b).i = s.i := rfl
@[simp] theorem State.setReg_pc (s : State) (r : Nibble) (b : Byte) : (s.setReg r b).pc = s.pc := rfl
@[simp] theorem State.setReg_mem (s : State) (r : Nibble) (b : Byte) : (s.setReg r b).mem = s.mem := rfl
@[simp] theorem State.setReg_stk (s : State) (r : Nibble) (b : Byte) : (s.setReg r b).stk = s.stk := rfl
@[simp] theorem State.setReg_sp (s : State) (r : Nibble) (b : Byte) : (s.setReg r b).sp = s.sp := rfl
@[simp] theorem State.setReg_dt (s : State) (r : Nibble) (b : Byte) : (s.setReg r b).dt = s.dt := rfl
@[simp] theorem State.setReg_st (s : State) (r : Nibble) (b : Byte) : (s.setReg r b).st = s.st := rfl
@[simp] theorem State.setReg_disp (s : State) (r : Nibble) (b : Byte) : (s.setReg r b).disp = s.disp := rfl
@[simp] theorem State.setReg_ir (s : State) (r : Nibble) (b : Byte) : (s.setReg r b).ir = s.ir := rfl
@[simp] theorem State.setReg_wait (s : State) (r : Nibble) (b : Byte) : (s.setReg r b).wait = s.wait := rfl
@[simp] theorem State.setReg_wreg (s : State) (r : Nibble) (b : Byte) : (s.setReg r b).wreg = s.wreg := rfl
@[simp] theorem State.setReg_fault (s : State) (r : Nibble) (b : Byte) : (s.setReg r b).fault = s.fault := rfl
@[simp] theorem State.setReg_env (s : State) (r : Nibble) (b : Byte) : (s.setReg r b).env = s.env := rfl

/-! ### setFlag -/

@[simp] theorem State.setFlag_v (s : State) (c : Bool) : (s.setFlag c).v = s.v.set 15 (flagByte c) := rfl
@[simp] theorem State.setFlag_i (s : State) (c : Bool) : (s.setFlag c).i = s.i := rfl
@[simp] theorem State.setFlag_pc (s : State) (c : Bool) : (s.setFlag c).pc = s.pc := rfl
@[simp] theorem State.setFlag_mem (s : State) (c : Bool) : (s.setFlag c).mem = s.mem := rfl
@[simp] theorem State.setFlag_stk (s : State) (c : Bool) : (s.setFlag c).stk = s.stk := rfl
@[simp] theorem State.setFlag_sp (s : State) (c : Bool) : (s.setFlag c).sp = s.sp := rfl
@[simp] theorem State.setFlag_dt (s : State) (c : Bool) : (s.setFlag c).dt = s.dt := rfl
@[simp] theorem State.setFlag_st (s : State) (c : Bool) : (s.setFlag c).st = s.st := rfl
@[simp] theorem State.setFlag_disp (s : State) (c : Bool) : (s.setFlag c).disp = s.disp := rfl
@[simp] theorem State.setFlag_ir (s : State) (c : Bool) : (s.setFlag c).ir = s.ir := rfl
@[simp] theorem State.setFlag_wait (s : State) (c : Bool) : (s.setFlag c).wait = s.wait := rfl
@[simp] theorem State.setFlag_wreg (s : State) (c : Bool) : (s.setFlag c).wreg = s.wreg := rfl
@[simp] theorem State.setFlag_fault (s : State) (c : Bool) : (s.setFlag c).fault = s.fault := rfl
@[simp] theorem State.setFlag_env (s : State) (c : Bool) : (s.setFlag c).env = s.env := rfl

/-! ### setI -/

@[simp] theorem State.setI_v (s : State) (w : Word) : (s.setI w).v = s.v := rfl
@[simp] theorem State.setI_i (s : State) (w : Word) : (s.setI w).i = w := rfl
@[simp] theorem State.setI_pc (s : State) (w : Word) : (s.setI w).pc = s.pc := rfl
@[simp] theorem State.setI_mem (s : State) (w : Word) : (s.setI w).mem = s.mem := rfl
@[simp] theorem State.setI_stk (s : State) (w : Word) : (s.setI w).stk = s.stk := rfl
@[simp] theorem State.setI_sp (s : State) (w : Word) : (s.setI w).sp = s.sp := rfl
@[simp] theorem State.setI_dt (s : State) (w : Word) : (s.setI w).dt = s.dt := rfl
@[simp] theorem State.setI_st (s : State) (w : Word) : (s.setI w).st = s.st := rfl
@[simp] theorem State.setI_disp (s : State) (w : Word) : (s.setI w).disp = s.disp := rfl
@[simp] theorem State.setI_ir (s : State) (w : Word) : (s.setI w).ir = s.ir := rfl
@[simp] theorem State.setI_wait (s : State) (w : Word) : (s.setI w).wait = s.wait := rfl
@[simp] theorem State.setI_wreg (s : State) (w : Word) : (s.setI w).wreg = s.wreg := rfl
@[simp] theorem State.setI_fault (s : State) (w : Word) : (s.setI w).fault = s.fault := rfl
@[simp] theorem State.setI_env (s : State) (w : Word) : (s.setI w).env = s.env := rfl

/-! ### setPc -/

@[simp] theorem State.setPc_v (s : State) (w : Word) : (s.setPc w).v = s.v := rfl
@[simp] theorem State.setPc_i (s : State) (w : Word) : (s.setPc w).i = s.i := rfl
@[simp] theorem State.setPc_pc (s : State) (w : Word) : (s.setPc w).pc = w := rfl
@[simp] theorem State.setPc_mem (s : State) (w : Word) : (s.setPc w).mem = s.mem := rfl
@[simp] theorem State.setPc_stk (s : State) (w : Word) : (s.setPc w).stk = s.stk := rfl
@[simp] theorem State.setPc_sp (s : State) (w : Word) : (s.setPc w).sp = s.sp := rfl
@[simp] theorem State.setPc_dt (s : State) (w : Word) : (s.setPc w).dt = s.dt := rfl
@[simp] theorem State.setPc_st (s : State) (w : Word) : (s.setPc w).st = s.st := rfl
@[simp] theorem State.setPc_disp (s : State) (w : Word) : (s.setPc w).disp = s.disp := rfl
@[simp] theorem State.setPc_ir (s : State) (w : Word) : (s.setPc w).ir = s.ir := rfl
@[simp] theorem State.setPc_wait (s : State) (w : Word) : (s.setPc w).wait = s.wait := rfl
@[simp] theorem State.setPc_wreg (s : State) (w : Word) : (s.setPc w).wreg = s.wreg := rfl
@[simp] theorem State.setPc_fault (s : State) (w : Word) : (s.setPc w).fault = s.fault := rfl
@[simp] theorem State.setPc_env (s : State) (w : Word) : (s.setPc w).env = s.env := rfl

/-! ### setDt -/

@[simp] theorem State.setDt_v (s : State) (b : Byte) : (s.setDt b).v = s.v := rfl
@[simp] theorem State.setDt_i (s : State) (b : Byte) : (s.setDt b).i = s.i := rfl
@[simp] theorem State.setDt_pc (s : State) (b : Byte) : (s.setDt b).pc = s.pc := rfl
@[simp] theorem State.setDt_mem (s : State) (b : Byte) : (s.setDt b).mem = s.mem := rfl
@[simp] theorem State.setDt_stk (s : State) (b : Byte) : (s.setDt b).stk = s.stk := rfl
@[simp] theorem State.setDt_sp (s : State) (b : Byte) : (s.setDt b).sp = s.sp := rfl
@[simp] theorem State.setDt_dt (s : State) (b : Byte) : (s.setDt b).dt = b := rfl
@[simp] theorem State.setDt_st (s : State) (b : Byte) : (s.setDt b).st = s.st := rfl
@[simp] theorem State.setDt_disp (s : State) (b : Byte) : (s.setDt b).disp = s.disp := rfl
@[simp] theorem State.setDt_ir (s : State) (b : Byte) : (s.setDt b).ir = s.ir := rfl
@[simp] theorem State.setDt_wait (s : State) (b : Byte) : (s.setDt b).wait = s.wait := rfl
@[simp] theorem State.setDt_wreg (s : State) (b : Byte) : (s.setDt b).wreg = s.wreg := rfl
@[simp] theorem State.setDt_fault (s : State) (b : Byte) : (s.setDt b).fault = s.fault := rfl
@[simp] theorem State.setDt_env (s : State) (b : Byte) : (s.setDt b).env = s.env := rfl

/-! ### setSt -/

@[simp] theorem State.setSt_v (s : State) (b : Byte) : (s.setSt b).v = s.v := rfl
@[simp] theorem State.setSt_i (s : State) (b : Byte) : (s.setSt b).i = s.i := rfl
@[simp] theorem State.setSt_pc (s : State) (b : Byte) : (s.setSt b).pc = s.pc := rfl
@[simp] theorem State.setSt_mem (s : State) (b : Byte) : (s.setSt b).mem = s.mem := rfl
@[simp] theorem State.setSt_stk (s : State) (b : Byte) : (s.setSt b).stk = s.stk := rfl
@[simp] theorem State.setSt_sp (s : State) (b : Byte) : (s.setSt b).sp = s.sp := rfl
@[simp] theorem State.setSt_dt (s : State) (b : Byte) : (s.setSt b).dt = s.dt := rfl
@[simp] theorem State.setSt_st (s : State) (b : Byte) : (s.setSt b).st = b := rfl
@[simp] theorem State.setSt_disp (s : State) (b : Byte) : (s.setSt b).disp = s.disp := rfl
@[simp] theorem State.setSt_ir (s : State) (b : Byte) : (s.setSt b).ir = s.ir := rfl
@[simp] theorem State.setSt_wait (s : State) (b : Byte) : (s.setSt b).wait = s.wait := rfl
@[simp] theorem State.setSt_wreg (s : State) (b : Byte) : (s.setSt b).wreg = s.wreg := rfl
@[simp] theorem State.setSt_fault (s : State) (b : Byte) : (s.setSt b).fault = s.fault := rfl
@[simp] theorem State.setSt_env (s : State) (b : Byte) : (s.setSt b).env = s.env := rfl

/-! ### setDisp -/

@[simp] theorem State.setDisp_v (s : State) (d : Grid) : (s.setDisp d).v = s.v := rfl
@[simp] theorem State.setDisp_i (s : State) (d : Grid) : (s.setDisp d).i = s.i := rfl
@[simp] theorem State.setDisp_pc (s : State) (d : Grid) : (s.setDisp d).pc = s.pc := rfl
@[simp] theorem State.setDisp_mem (s : State) (d : Grid) : (s.setDisp d).mem = s.mem := rfl
@[simp] theorem State.setDisp_stk (s : State) (d : Grid) : (s.setDisp d).stk = s.stk := rfl
@[simp] theorem State.setDisp_sp (s : State) (d : Grid) : (s.setDisp d).sp = s.sp := rfl
@[simp] theorem State.setDisp_dt (s : State) (d : Grid) : (s.setDisp d).dt = s.dt := rfl
@[simp] theorem State.setDisp_st (s : State) (d : Grid) : (s.setDisp d).st = s.st := rfl
@[simp] theorem State.setDisp_disp (s : State) (d : Grid) : (s.setDisp d).disp = d := rfl
@[simp] theorem State.setDisp_ir (s : State) (d : Grid) : (s.setDisp d).ir = s.ir := rfl
@[simp] theorem State.setDisp_wait (s : State) (d : Grid) : (s.setDisp d).wait = s.wait := rfl
@[simp] theorem State.setDisp_wreg (s : State) (d : Grid) : (s.setDisp d).wreg = s.wreg := rfl
@[simp] theorem State.setDisp_fault (s : State) (d : Grid) : (s.setDisp d).fault = s.fault := rfl
@[simp] theorem State.setDisp_env (s : State) (d : Grid) : (s.setDisp d).env = s.env := rfl

/-! ### setMem -/

@[simp] theorem State.setMem_v (s : State) (m : Memory) : (s.setMem m).v = s.v := rfl
@[simp] theorem State.setMem_i (s : State) (m : Memory) : (s.setMem m).i = s.i := rfl
@[simp] theorem State.setMem_pc (s : State) (m : Memory) : (s.setMem m).pc = s.pc := rfl
@[simp] theorem State.setMem_mem (s : State) (m : Memory) : (s.setMem m).mem = m := rfl
@[simp] theorem State.setMem_stk (s : State) (m : Memory) : (s.setMem m).stk = s.stk := rfl
@[simp] theorem State.setMem_sp (s : State) (m : Memory) : (s.setMem m).sp = s.sp := rfl
@[simp] theorem State.setMem_dt (s : State) (m : Memory) : (s.setMem m).dt = s.dt := rfl
@[simp] theorem State.setMem_st (s : State) (m : Memory) : (s.setMem m).st = s.st := rfl
@[simp] theorem State.setMem_disp (s : State) (m : Memory) : (s.setMem m).disp = s.disp := rfl
@[simp] theorem State.setMem_ir (s : State) (m : Memory) : (s.setMem m).ir = s.ir := rfl
@[simp] theorem State.setMem_wait (s : State) (m : Memory) : (s.setMem m).wait = s.wait := rfl
@[simp] theorem State.setMem_wreg (s : State) (m : Memory) : (s.setMem m).wreg = s.wreg := rfl
@[simp] theorem State.setMem_fault (s : State) (m : Memory) : (s.setMem m).fault = s.fault := rfl
@[simp] theorem State.setMem_env (s : State) (m : Memory) : (s.setMem m).env = s.env := rfl

/-! ### enterWait -/

@[simp] theorem State.enterWait_v (s : State) (r : Nibble) : (s.enterWait r).v = s.v := rfl
@[simp] theorem State.enterWait_i (s : State) (r : Nibble) : (s.enterWait r).i = s.i := rfl
@[simp] theorem State.enterWait_pc (s : State) (r : Nibble) : (s.enterWait r).pc = s.pc := rfl
@[simp] theorem State.enterWait_mem (s : State) (r : Nibble) : (s.enterWait r).mem = s.mem := rfl
@[simp] theorem State.enterWait_stk (s : State) (r : Nibble) : (s.enterWait r).stk = s.stk := rfl
@[simp] theorem State.enterWait_sp (s : State) (r : Nibble) : (s.enterWait r).sp = s.sp := rfl
@[simp] theorem State.enterWait_dt (s : State) (r : Nibble) : (s.enterWait r).dt = s.dt := rfl
@[simp] theorem State.enterWait_st (s : State) (r : Nibble) : (s.enterWait r).st = s.st := rfl
@[simp] theorem State.enterWait_disp (s : State) (r : Nibble) : (s.enterWait r).disp = s.disp := rfl
@[simp] theorem State.enterWait_ir (s : State) (r : Nibble) : (s.enterWait r).ir = s.ir := rfl
@[simp] theorem State.enterWait_wait (s : State) (r : Nibble) : (s.enterWait r).wait = true := rfl
@[simp] theorem State.enterWait_wreg (s : State) (r : Nibble) : (s.enterWait r).wreg = r := rfl
@[simp] theorem State.enterWait_fault (s : State) (r : Nibble) : (s.enterWait r).fault = s.fault := rfl
@[simp] theorem State.enterWait_env (s : State) (r : Nibble) : (s.enterWait r).env = s.env := rfl

/-! ### raise -/

@[simp] theorem State.raise_v (s : State) (k : FaultKind) (p : Word) (w a : Option Word) : (s.raise k p w a).v = s.v := rfl
@[simp] theorem State.raise_i (s : State) (k : FaultKind) (p : Word) (w a : Option Word) : (s.raise k p w a).i = s.i := rfl
@[simp] theorem State.raise_pc (s : State) (k : FaultKind) (p : Word) (w a : Option Word) : (s.raise k p w a).pc = p := rfl
@[simp] theorem State.raise_mem (s : State) (k : FaultKind) (p : Word) (w a : Option Word) : (s.raise k p w a).mem = s.mem := rfl
@[simp] theorem State.raise_stk (s : State) (k : FaultKind) (p : Word) (w a : Option Word) : (s.raise k p w a).stk = s.stk := rfl
@[simp] theorem State.raise_sp (s : State) (k : FaultKind) (p : Word) (w a : Option Word) : (s.raise k p w a).sp = s.sp := rfl
@[simp] theorem State.raise_dt (s : State) (k : FaultKind) (p : Word) (w a : Option Word) : (s.raise k p w a).dt = s.dt := rfl
@[simp] theorem State.raise_st (s : State) (k : FaultKind) (p : Word) (w a : Option Word) : (s.raise k p w a).st = s.st := rfl
@[simp] theorem State.raise_disp (s : State) (k : FaultKind) (p : Word) (w a : Option Word) : (s.raise k p w a).disp = s.disp := rfl
@[simp] theorem State.raise_ir (s : State) (k : FaultKind) (p : Word) (w a : Option Word) : (s.raise k p w a).ir = s.ir := rfl
@[simp] theorem State.raise_wait (s : State) (k : FaultKind) (p : Word) (w a : Option Word) : (s.raise k p w a).wait = s.wait := rfl
@[simp] theorem State.raise_wreg (s : State) (k : FaultKind) (p : Word) (w a : Option Word) : (s.raise k p w a).wreg = s.wreg := rfl
@[simp] theorem State.raise_fault (s : State) (k : FaultKind) (p : Word) (w a : Option Word) : (s.raise k p w a).fault = { kind := k, pc0 := p, ir := w.getD (Config.noFaultIr s.env.tick), addr := a.getD (Config.noFaultAddr s.env.tick) } := rfl
@[simp] theorem State.raise_env (s : State) (k : FaultKind) (p : Word) (w a : Option Word) : (s.raise k p w a).env = s.env := rfl

/-! ### raiseHere -/

@[simp] theorem State.raiseHere_v (s : State) (k : FaultKind) (a : Option Word) : (s.raiseHere k a).v = s.v := rfl
@[simp] theorem State.raiseHere_i (s : State) (k : FaultKind) (a : Option Word) : (s.raiseHere k a).i = s.i := rfl
@[simp] theorem State.raiseHere_pc (s : State) (k : FaultKind) (a : Option Word) : (s.raiseHere k a).pc = s.pc - 2 := rfl
@[simp] theorem State.raiseHere_mem (s : State) (k : FaultKind) (a : Option Word) : (s.raiseHere k a).mem = s.mem := rfl
@[simp] theorem State.raiseHere_stk (s : State) (k : FaultKind) (a : Option Word) : (s.raiseHere k a).stk = s.stk := rfl
@[simp] theorem State.raiseHere_sp (s : State) (k : FaultKind) (a : Option Word) : (s.raiseHere k a).sp = s.sp := rfl
@[simp] theorem State.raiseHere_dt (s : State) (k : FaultKind) (a : Option Word) : (s.raiseHere k a).dt = s.dt := rfl
@[simp] theorem State.raiseHere_st (s : State) (k : FaultKind) (a : Option Word) : (s.raiseHere k a).st = s.st := rfl
@[simp] theorem State.raiseHere_disp (s : State) (k : FaultKind) (a : Option Word) : (s.raiseHere k a).disp = s.disp := rfl
@[simp] theorem State.raiseHere_ir (s : State) (k : FaultKind) (a : Option Word) : (s.raiseHere k a).ir = s.ir := rfl
@[simp] theorem State.raiseHere_wait (s : State) (k : FaultKind) (a : Option Word) : (s.raiseHere k a).wait = s.wait := rfl
@[simp] theorem State.raiseHere_wreg (s : State) (k : FaultKind) (a : Option Word) : (s.raiseHere k a).wreg = s.wreg := rfl
@[simp] theorem State.raiseHere_fault (s : State) (k : FaultKind) (a : Option Word) : (s.raiseHere k a).fault = { kind := k, pc0 := s.pc - 2, ir := s.ir, addr := a.getD (Config.noFaultAddr s.env.tick) } := rfl
@[simp] theorem State.raiseHere_env (s : State) (k : FaultKind) (a : Option Word) : (s.raiseHere k a).env = s.env := rfl

/-! ### advance -/

@[simp] theorem State.advance_v (s : State) (w : Word) : (s.advance w).v = s.v := rfl
@[simp] theorem State.advance_i (s : State) (w : Word) : (s.advance w).i = s.i := rfl
@[simp] theorem State.advance_pc (s : State) (w : Word) : (s.advance w).pc = s.pc + 2 := rfl
@[simp] theorem State.advance_mem (s : State) (w : Word) : (s.advance w).mem = s.mem := rfl
@[simp] theorem State.advance_stk (s : State) (w : Word) : (s.advance w).stk = s.stk := rfl
@[simp] theorem State.advance_sp (s : State) (w : Word) : (s.advance w).sp = s.sp := rfl
@[simp] theorem State.advance_dt (s : State) (w : Word) : (s.advance w).dt = s.dt := rfl
@[simp] theorem State.advance_st (s : State) (w : Word) : (s.advance w).st = s.st := rfl
@[simp] theorem State.advance_disp (s : State) (w : Word) : (s.advance w).disp = s.disp := rfl
@[simp] theorem State.advance_ir (s : State) (w : Word) : (s.advance w).ir = w := rfl
@[simp] theorem State.advance_wait (s : State) (w : Word) : (s.advance w).wait = s.wait := rfl
@[simp] theorem State.advance_wreg (s : State) (w : Word) : (s.advance w).wreg = s.wreg := rfl
@[simp] theorem State.advance_fault (s : State) (w : Word) : (s.advance w).fault = s.fault := rfl
@[simp] theorem State.advance_env (s : State) (w : Word) : (s.advance w).env = s.env := rfl

/-! ### sampled -/

@[simp] theorem State.sampled_v (s : State) : (s.sampled).v = s.v := rfl
@[simp] theorem State.sampled_i (s : State) : (s.sampled).i = s.i := rfl
@[simp] theorem State.sampled_pc (s : State) : (s.sampled).pc = s.pc := rfl
@[simp] theorem State.sampled_mem (s : State) : (s.sampled).mem = s.mem := rfl
@[simp] theorem State.sampled_stk (s : State) : (s.sampled).stk = s.stk := rfl
@[simp] theorem State.sampled_sp (s : State) : (s.sampled).sp = s.sp := rfl
@[simp] theorem State.sampled_dt (s : State) : (s.sampled).dt = s.dt := rfl
@[simp] theorem State.sampled_st (s : State) : (s.sampled).st = s.st := rfl
@[simp] theorem State.sampled_disp (s : State) : (s.sampled).disp = s.disp := rfl
@[simp] theorem State.sampled_ir (s : State) : (s.sampled).ir = s.ir := rfl
@[simp] theorem State.sampled_wait (s : State) : (s.sampled).wait = s.wait := rfl
@[simp] theorem State.sampled_wreg (s : State) : (s.sampled).wreg = s.wreg := rfl
@[simp] theorem State.sampled_fault (s : State) : (s.sampled).fault = s.fault := rfl
@[simp] theorem State.sampled_env (s : State) : (s.sampled).env = { s.env with rnd := Config.rnd s.env.tick, keys := Config.keys s.env.tick } := rfl

/-! ### endTick -/

@[simp] theorem State.endTick_v (s : State) : (s.endTick).v = s.v := rfl
@[simp] theorem State.endTick_i (s : State) : (s.endTick).i = s.i := rfl
@[simp] theorem State.endTick_pc (s : State) : (s.endTick).pc = s.pc := rfl
@[simp] theorem State.endTick_mem (s : State) : (s.endTick).mem = s.mem := rfl
@[simp] theorem State.endTick_stk (s : State) : (s.endTick).stk = s.stk := rfl
@[simp] theorem State.endTick_sp (s : State) : (s.endTick).sp = s.sp := rfl
@[simp] theorem State.endTick_dt (s : State) : (s.endTick).dt = s.dt := rfl
@[simp] theorem State.endTick_st (s : State) : (s.endTick).st = s.st := rfl
@[simp] theorem State.endTick_disp (s : State) : (s.endTick).disp = s.disp := rfl
@[simp] theorem State.endTick_ir (s : State) : (s.endTick).ir = Config.idleIr s.env.tick := rfl
@[simp] theorem State.endTick_wait (s : State) : (s.endTick).wait = s.wait := rfl
@[simp] theorem State.endTick_wreg (s : State) : (s.endTick).wreg = s.wreg := rfl
@[simp] theorem State.endTick_fault (s : State) : (s.endTick).fault = s.fault := rfl
@[simp] theorem State.endTick_env (s : State) : (s.endTick).env = { s.env with tick := s.env.tick + 1, inbox := Config.arrivals s.env.tick, started := true } := rfl

/-! ### withInbox -/

@[simp] theorem State.withInbox_v (s : State) (l : List HostEvent) : (s.withInbox l).v = s.v := rfl
@[simp] theorem State.withInbox_i (s : State) (l : List HostEvent) : (s.withInbox l).i = s.i := rfl
@[simp] theorem State.withInbox_pc (s : State) (l : List HostEvent) : (s.withInbox l).pc = s.pc := rfl
@[simp] theorem State.withInbox_mem (s : State) (l : List HostEvent) : (s.withInbox l).mem = s.mem := rfl
@[simp] theorem State.withInbox_stk (s : State) (l : List HostEvent) : (s.withInbox l).stk = s.stk := rfl
@[simp] theorem State.withInbox_sp (s : State) (l : List HostEvent) : (s.withInbox l).sp = s.sp := rfl
@[simp] theorem State.withInbox_dt (s : State) (l : List HostEvent) : (s.withInbox l).dt = s.dt := rfl
@[simp] theorem State.withInbox_st (s : State) (l : List HostEvent) : (s.withInbox l).st = s.st := rfl
@[simp] theorem State.withInbox_disp (s : State) (l : List HostEvent) : (s.withInbox l).disp = s.disp := rfl
@[simp] theorem State.withInbox_ir (s : State) (l : List HostEvent) : (s.withInbox l).ir = s.ir := rfl
@[simp] theorem State.withInbox_wait (s : State) (l : List HostEvent) : (s.withInbox l).wait = s.wait := rfl
@[simp] theorem State.withInbox_wreg (s : State) (l : List HostEvent) : (s.withInbox l).wreg = s.wreg := rfl
@[simp] theorem State.withInbox_fault (s : State) (l : List HostEvent) : (s.withInbox l).fault = s.fault := rfl
@[simp] theorem State.withInbox_env (s : State) (l : List HostEvent) : (s.withInbox l).env = { s.env with inbox := l } := rfl

/-! ### loadRegs -/

@[simp] theorem State.loadRegs_v (s : State) (x : Nibble) : (s.loadRegs x).v = Vector.ofFn fun j : Fin 16 => if j.val ≤ x.toNat then Memory.read s.mem (s.ea j.val) else s.v[j.val] := rfl
@[simp] theorem State.loadRegs_i (s : State) (x : Nibble) : (s.loadRegs x).i = s.i := rfl
@[simp] theorem State.loadRegs_pc (s : State) (x : Nibble) : (s.loadRegs x).pc = s.pc := rfl
@[simp] theorem State.loadRegs_mem (s : State) (x : Nibble) : (s.loadRegs x).mem = s.mem := rfl
@[simp] theorem State.loadRegs_stk (s : State) (x : Nibble) : (s.loadRegs x).stk = s.stk := rfl
@[simp] theorem State.loadRegs_sp (s : State) (x : Nibble) : (s.loadRegs x).sp = s.sp := rfl
@[simp] theorem State.loadRegs_dt (s : State) (x : Nibble) : (s.loadRegs x).dt = s.dt := rfl
@[simp] theorem State.loadRegs_st (s : State) (x : Nibble) : (s.loadRegs x).st = s.st := rfl
@[simp] theorem State.loadRegs_disp (s : State) (x : Nibble) : (s.loadRegs x).disp = s.disp := rfl
@[simp] theorem State.loadRegs_ir (s : State) (x : Nibble) : (s.loadRegs x).ir = s.ir := rfl
@[simp] theorem State.loadRegs_wait (s : State) (x : Nibble) : (s.loadRegs x).wait = s.wait := rfl
@[simp] theorem State.loadRegs_wreg (s : State) (x : Nibble) : (s.loadRegs x).wreg = s.wreg := rfl
@[simp] theorem State.loadRegs_fault (s : State) (x : Nibble) : (s.loadRegs x).fault = s.fault := rfl
@[simp] theorem State.loadRegs_env (s : State) (x : Nibble) : (s.loadRegs x).env = s.env := rfl

/-! ### endWait -/

@[simp] theorem State.endWait_v (s : State) : (s.endWait).v = s.v := rfl
@[simp] theorem State.endWait_i (s : State) : (s.endWait).i = s.i := rfl
@[simp] theorem State.endWait_pc (s : State) : (s.endWait).pc = s.pc := rfl
@[simp] theorem State.endWait_mem (s : State) : (s.endWait).mem = s.mem := rfl
@[simp] theorem State.endWait_stk (s : State) : (s.endWait).stk = s.stk := rfl
@[simp] theorem State.endWait_sp (s : State) : (s.endWait).sp = s.sp := rfl
@[simp] theorem State.endWait_dt (s : State) : (s.endWait).dt = s.dt := rfl
@[simp] theorem State.endWait_st (s : State) : (s.endWait).st = s.st := rfl
@[simp] theorem State.endWait_disp (s : State) : (s.endWait).disp = s.disp := rfl
@[simp] theorem State.endWait_ir (s : State) : (s.endWait).ir = s.ir := rfl
@[simp] theorem State.endWait_wait (s : State) : (s.endWait).wait = false := rfl
@[simp] theorem State.endWait_wreg (s : State) : (s.endWait).wreg = s.wreg := rfl
@[simp] theorem State.endWait_fault (s : State) : (s.endWait).fault = s.fault := rfl
@[simp] theorem State.endWait_env (s : State) : (s.endWait).env = s.env := rfl

/-! ### setStack -/

@[simp] theorem State.setStack_v (s : State) (k : Vector Word 16) (n : Fin 17) : (s.setStack k n).v = s.v := rfl
@[simp] theorem State.setStack_i (s : State) (k : Vector Word 16) (n : Fin 17) : (s.setStack k n).i = s.i := rfl
@[simp] theorem State.setStack_pc (s : State) (k : Vector Word 16) (n : Fin 17) : (s.setStack k n).pc = s.pc := rfl
@[simp] theorem State.setStack_mem (s : State) (k : Vector Word 16) (n : Fin 17) : (s.setStack k n).mem = s.mem := rfl
@[simp] theorem State.setStack_stk (s : State) (k : Vector Word 16) (n : Fin 17) : (s.setStack k n).stk = k := rfl
@[simp] theorem State.setStack_sp (s : State) (k : Vector Word 16) (n : Fin 17) : (s.setStack k n).sp = n := rfl
@[simp] theorem State.setStack_dt (s : State) (k : Vector Word 16) (n : Fin 17) : (s.setStack k n).dt = s.dt := rfl
@[simp] theorem State.setStack_st (s : State) (k : Vector Word 16) (n : Fin 17) : (s.setStack k n).st = s.st := rfl
@[simp] theorem State.setStack_disp (s : State) (k : Vector Word 16) (n : Fin 17) : (s.setStack k n).disp = s.disp := rfl
@[simp] theorem State.setStack_ir (s : State) (k : Vector Word 16) (n : Fin 17) : (s.setStack k n).ir = s.ir := rfl
@[simp] theorem State.setStack_wait (s : State) (k : Vector Word 16) (n : Fin 17) : (s.setStack k n).wait = s.wait := rfl
@[simp] theorem State.setStack_wreg (s : State) (k : Vector Word 16) (n : Fin 17) : (s.setStack k n).wreg = s.wreg := rfl
@[simp] theorem State.setStack_fault (s : State) (k : Vector Word 16) (n : Fin 17) : (s.setStack k n).fault = s.fault := rfl
@[simp] theorem State.setStack_env (s : State) (k : Vector Word 16) (n : Fin 17) : (s.setStack k n).env = s.env := rfl

/-! ### registers -/

/-- A register write seen through a register read. -/
@[simp] theorem State.setReg_reg (s : State) (r q : Nibble) (b : Byte) :
    (s.setReg r b).reg q = if q = r then b else s.reg q := by
  unfold State.setReg State.reg
  simp only [Vector.getElem_set, BitVec.toNat_inj, eq_comm (a := r)]

/-- The flag register is register 15. -/
@[simp] theorem State.setFlag_reg (s : State) (c : Bool) (q : Nibble) :
    (s.setFlag c).reg q = if q = 0xF then flagByte c else s.reg q := State.setReg_reg s 0xF q (flagByte c)

/-- Fx65 seen through a register read. -/
@[simp] theorem State.loadRegs_reg (s : State) (x q : Nibble) :
    (s.loadRegs x).reg q = if q.toNat ≤ x.toNat then Memory.read s.mem (s.ea q.toNat) else s.reg q := by
  unfold State.loadRegs State.reg
  simp only [Vector.getElem_ofFn]

@[simp] theorem State.setI_reg (s : State) (w : Word) (q : Nibble) : (s.setI w).reg q = s.reg q := rfl
@[simp] theorem State.setPc_reg (s : State) (w : Word) (q : Nibble) : (s.setPc w).reg q = s.reg q := rfl
@[simp] theorem State.setDt_reg (s : State) (b : Byte) (q : Nibble) : (s.setDt b).reg q = s.reg q := rfl
@[simp] theorem State.setSt_reg (s : State) (b : Byte) (q : Nibble) : (s.setSt b).reg q = s.reg q := rfl
@[simp] theorem State.setDisp_reg (s : State) (d : Grid) (q : Nibble) : (s.setDisp d).reg q = s.reg q := rfl
@[simp] theorem State.setMem_reg (s : State) (m : Memory) (q : Nibble) : (s.setMem m).reg q = s.reg q := rfl
@[simp] theorem State.enterWait_reg (s : State) (r : Nibble) (q : Nibble) : (s.enterWait r).reg q = s.reg q := rfl
@[simp] theorem State.raise_reg (s : State) (k : FaultKind) (p : Word) (w a : Option Word) (q : Nibble) : (s.raise k p w a).reg q = s.reg q := rfl
@[simp] theorem State.raiseHere_reg (s : State) (k : FaultKind) (a : Option Word) (q : Nibble) : (s.raiseHere k a).reg q = s.reg q := rfl
@[simp] theorem State.advance_reg (s : State) (w : Word) (q : Nibble) : (s.advance w).reg q = s.reg q := rfl
@[simp] theorem State.sampled_reg (s : State) (q : Nibble) : (s.sampled).reg q = s.reg q := rfl
@[simp] theorem State.endTick_reg (s : State) (q : Nibble) : (s.endTick).reg q = s.reg q := rfl
@[simp] theorem State.withInbox_reg (s : State) (l : List HostEvent) (q : Nibble) : (s.withInbox l).reg q = s.reg q := rfl
@[simp] theorem State.endWait_reg (s : State) (q : Nibble) : (s.endWait).reg q = s.reg q := rfl
@[simp] theorem State.setStack_reg (s : State) (k : Vector Word 16) (n : Fin 17) (q : Nibble) : (s.setStack k n).reg q = s.reg q := rfl

/-- A skip seen through a register read. -/
@[simp] theorem State.skipIf_reg (s : State) (c : Bool) (q : Nibble) : (s.skipIf c).reg q = s.reg q := by
  cases c <;> rfl

/-- A skip changes `pc` or nothing. -/
theorem State.skipIf_eq (s : State) (c : Bool) : s.skipIf c = s.setPc (if c then s.pc + 2 else s.pc) := by
  cases c <;> rfl

end Sys2Proof.Machine
end

