-- ==== Sys2Proof/Laws/Display.lean ====
section
/-! SUPPORT. Sys2Proof/Laws/Display.lean: the pixel laws of the display operations. -/

namespace Sys2Proof.Machine

/-- Toggling one pixel inverts it and leaves every other pixel alone. -/
@[simp] theorem pixel_togglePixel (d : Grid) (px qx : Fin 64) (py qy : Fin 32) :
    pixel (togglePixel d px py) qx qy = (pixel d qx qy ^^ (decide (qx = px) && decide (qy = py))) := by
  unfold pixel togglePixel
  by_cases hy : qy = py
  · subst hy
    by_cases hx : qx = px
    · subst hx
      simp [BitVec.getElem_twoPow]
    · have hx' : ¬ qx.val = px.val := fun h => hx (Fin.ext h)
      simp [BitVec.getElem_twoPow, hx, hx']
  · have hy' : ¬ py.val = qy.val := fun h => hy (Fin.ext h.symm)
    simp [hy, hy']

/-- The clear grid has no pixel set. -/
@[simp] theorem pixel_blankGrid (px : Fin 64) (py : Fin 32) : pixel blankGrid px py = false := by
  simp [pixel, blankGrid]

/-- A sprite bit of 0 does nothing; a sprite bit of 1 inverts its pixel and reports whether that pixel was set. -/
theorem drawBit_cases (x0 y0 : Byte) (row : Nat) (b : Byte) (acc : Grid × Bool) (col : Nat) :
    (spriteBit b col = false ∧ drawBit x0 y0 row b acc col = acc) ∨
    (spriteBit b col = true ∧ drawBit x0 y0 row b acc col =
      (togglePixel acc.1 (spriteCol x0 col) (spriteRow y0 row),
        acc.2 || pixel acc.1 (spriteCol x0 col) (spriteRow y0 row))) := by
  unfold drawBit
  cases spriteBit b col <;> simp

end Sys2Proof.Machine
end

