-- ==== Sys2Proof/Laws/Memory.lean ====
section
/-! SUPPORT. Sys2Proof/Laws/Memory.lean: reading after writing, and that every memory operation keeps the canonical form. None
of the reading laws needs the memory to be canonical. -/

namespace Sys2Proof.Machine

/-- Dropping the cells of address `a` leaves `a` unlisted and every other address as it was. -/
theorem Memory.read_filter (m : Memory) (a b : Nat) :
    Memory.read (m.filter (fun c => c.1 != a)) b = if a = b then Memory.blank b else Memory.read m b := by
  induction m with
  | nil => simp [Memory.read]
  | cons c rest ih =>
    obtain ⟨k, v⟩ := c
    by_cases hk : k = a <;> by_cases hb : a = b <;> simp_all [Memory.read]

/-- Placing a cell at an unlisted address. -/
theorem Memory.read_place (m : Memory) (a b : Nat) (v : Byte) (h : ∀ c ∈ m, c.1 ≠ a) :
    Memory.read (Memory.place a v m) b = if a = b then v else Memory.read m b := by
  induction m with
  | nil => simp [Memory.place, Memory.read]
  | cons c rest ih =>
    obtain ⟨k, w⟩ := c
    have hk : k ≠ a := h (k, w) (by simp)
    have ih := ih fun c hc => h c (by simp [hc])
    by_cases hlt : a < k
    · simp [Memory.place, Memory.read, hlt]
    · by_cases hkb : k = b
      · subst hkb
        simp [Memory.place, Memory.read, hlt, Ne.symm hk]
      · simp [Memory.place, Memory.read, hlt, hkb, ih]

/-- A byte read after a byte written. -/
@[simp] theorem Memory.read_write (m : Memory) (a b : Nat) (v : Byte) :
    Memory.read (Memory.write m a v) b = if a = b then v else Memory.read m b := by
  unfold Memory.write
  split
  · rename_i hv
    rw [Memory.read_filter]
    split <;> simp_all
  · rw [Memory.read_place, Memory.read_filter]
    · split <;> simp_all
    · intro c hc
      simpa using (List.mem_filter.mp hc).2

/-- Bytes written in a row: the `j`-th one reads at the `j`-th address, every address outside the row reads as before. -/
theorem Memory.read_writeList (m : Memory) (a b : Nat) (bs : List Byte) :
    Memory.read (Memory.writeList m a bs) b =
      if h : a ≤ b ∧ b < a + bs.length then bs[b - a]'(by omega) else Memory.read m b := by
  induction bs generalizing m a with
  | nil =>
    have h : ¬(a ≤ b ∧ b < a + ([] : List Byte).length) := by simp
    rw [dif_neg h]
    rfl
  | cons v rest ih =>
    rw [Memory.writeList, ih, Memory.read_write]
    by_cases hab : a = b
    · subst hab
      simp
    · by_cases hin : a + 1 ≤ b ∧ b < a + 1 + rest.length
      · have hin' : a ≤ b ∧ b < a + (v :: rest).length := by simp; omega
        rw [dif_pos hin, dif_pos hin']
        have hidx : b - a = (b - (a + 1)) + 1 := by omega
        simp [hidx]
      · have hin' : ¬(a ≤ b ∧ b < a + (v :: rest).length) := by simp; omega
        rw [dif_neg hin, dif_neg hin', if_neg hab]

@[simp] theorem Memory.readList_length (m : Memory) (a n : Nat) : (Memory.readList m a n).length = n := by
  induction n generalizing a with
  | zero => rfl
  | succ n ih => simp [Memory.readList, ih]

/-- The `j`-th byte of a row is the byte at the `j`-th address. -/
@[simp] theorem Memory.readList_getElem (m : Memory) (a n j : Nat) (h : j < (Memory.readList m a n).length) :
    (Memory.readList m a n)[j] = Memory.read m (a + j) := by
  induction n generalizing a j with
  | zero => simp at h
  | succ n ih =>
    cases j with
    | zero => simp [Memory.readList]
    | succ j => simp only [Memory.readList, List.getElem_cons_succ, ih]; congr 1; omega

/-! ## The canonical form -/

/-- Placing a cell keeps every cell that was there. -/
theorem Memory.mem_place (m : Memory) (a : Nat) (v : Byte) (c : Host.Cell) :
    c ∈ Memory.place a v m ↔ c = (a, v) ∨ c ∈ m := by
  induction m with
  | nil => simp [Memory.place]
  | cons d rest ih =>
    unfold Memory.place
    split
    · simp
    · simp only [List.mem_cons, ih]
      tauto

/-- Placing a cell at an unlisted address keeps the addresses rising. -/
theorem Memory.place_pairwise (m : Memory) (a : Nat) (v : Byte) (h : ∀ c ∈ m, c.1 ≠ a)
    (hm : m.Pairwise (fun c d => c.1 < d.1)) : (Memory.place a v m).Pairwise (fun c d => c.1 < d.1) := by
  induction m with
  | nil => simp [Memory.place]
  | cons d rest ih =>
    obtain ⟨hd, hrest⟩ := List.pairwise_cons.mp hm
    have hne : d.1 ≠ a := h d (by simp)
    unfold Memory.place
    split
    · rename_i hlt
      refine List.pairwise_cons.mpr ⟨fun c hc => ?_, hm⟩
      rcases List.mem_cons.mp hc with rfl | hc
      · exact hlt
      · exact hlt.trans (hd c hc)
    · rename_i hlt
      refine List.pairwise_cons.mpr ⟨fun c hc => ?_, ih (fun c hc => h c (by simp [hc])) hrest⟩
      rcases (Memory.mem_place rest a v c).mp hc with rfl | hc
      · simp only; omega
      · exact hd c hc

/-- A byte written inside the space keeps the canonical form. -/
theorem Memory.write_wf (m : Memory) (a : Nat) (v : Byte) (ha : a < Config.memSize) (hm : Memory.wf m) :
    Memory.wf (Memory.write m a v) := by
  have hf : Memory.wf (m.filter (fun c => c.1 != a)) :=
    ⟨hm.1.filter _, fun c hc => hm.2 c (List.mem_of_mem_filter hc)⟩
  unfold Memory.write
  split
  · exact hf
  · rename_i hv
    refine ⟨Memory.place_pairwise _ a v (fun c hc => by simpa using (List.mem_filter.mp hc).2) hf.1, fun c hc => ?_⟩
    rcases (Memory.mem_place _ a v c).mp hc with rfl | hc
    · exact ⟨ha, hv⟩
    · exact hf.2 c hc

/-- Bytes written in a row inside the space keep the canonical form. -/
theorem Memory.writeList_wf (m : Memory) (a : Nat) (bs : List Byte) (h : a + bs.length ≤ Config.memSize)
    (hm : Memory.wf m) : Memory.wf (Memory.writeList m a bs) := by
  induction bs generalizing m a with
  | nil => exact hm
  | cons v rest ih =>
    simp only [List.length_cons] at h
    exact ih _ _ (by omega) (Memory.write_wf m a v (by omega) hm)

/-- A word written inside the space keeps the canonical form. -/
theorem Memory.writeWord_wf (m : Memory) (a : Nat) (w : Word) (h : a + 2 ≤ Config.memSize) (hm : Memory.wf m) :
    Memory.wf (Memory.writeWord m a w) := Memory.writeList_wf m a (bytesOfWord w) h hm

/-- Two canonical memories that read the same everywhere are the same list. -/
theorem Memory.eq_of_read (m n : Memory) (hm : Memory.wf m) (hn : Memory.wf n)
    (h : ∀ a, Memory.read m a = Memory.read n a) : m = n := by
  have head_lt : ∀ (l : Memory) (k : Nat), (∀ c ∈ l, k < c.1) → Memory.read l k = Memory.blank k := by
    intro l k hl
    induction l with
    | nil => rfl
    | cons c rest ih =>
      have hc := hl c (by simp)
      simp only [Memory.read]
      rw [if_neg (by omega)]
      exact ih fun c hc => hl c (by simp [hc])
  induction m generalizing n with
  | nil =>
    cases n with
    | nil => rfl
    | cons d ns =>
      have := h d.1
      simp only [Memory.read, if_true] at this
      exact absurd this.symm (hn.2 d (by simp)).2
  | cons c ms ih =>
    cases n with
    | nil =>
      have := h c.1
      simp only [Memory.read, if_true] at this
      exact absurd this (hm.2 c (by simp)).2
    | cons d ns =>
      obtain ⟨hc, hms⟩ := List.pairwise_cons.mp hm.1
      obtain ⟨hd, hns⟩ := List.pairwise_cons.mp hn.1
      have key : c.1 = d.1 := by
        rcases Nat.lt_trichotomy c.1 d.1 with hlt | heq | hlt
        · have h1 := h c.1
          rw [head_lt (d :: ns) c.1 (by
            intro e he
            rcases List.mem_cons.mp he with rfl | he
            · exact hlt
            · exact hlt.trans (hd e he))] at h1
          simp only [Memory.read, if_true] at h1
          exact absurd h1 (hm.2 c (by simp)).2
        · exact heq
        · have h1 := h d.1
          rw [head_lt (c :: ms) d.1 (by
            intro e he
            rcases List.mem_cons.mp he with rfl | he
            · exact hlt
            · exact hlt.trans (hc e he))] at h1
          simp only [Memory.read, if_true] at h1
          exact absurd h1.symm (hn.2 d (by simp)).2
      have val : c.2 = d.2 := by
        have h1 := h c.1
        simpa [Memory.read, key] using h1
      have tail : ms = ns := by
        refine ih ns ⟨hms, fun e he => hm.2 e (by simp [he])⟩ ⟨hns, fun e he => hn.2 e (by simp [he])⟩ fun a => ?_
        by_cases ha : c.1 = a
        · rw [head_lt ms a (fun e he => ha ▸ hc e he), head_lt ns a (fun e he => ha ▸ key ▸ hd e he)]
        · have h1 := h a
          simpa [Memory.read, ha, key ▸ ha] using h1
      rw [tail, Prod.ext key val]

end Sys2Proof.Machine
end

