-- ==== Sys2Proof/Laws/Ops.lean ====
section
/-! SUPPORT. Sys2Proof/Laws/Ops.lean: for each shared operation, once, everything it can do. -/

namespace Sys2Proof.Machine

/-! ## Bounds -/

/-- An access is in bounds when it has no byte or its last byte is below 4096. -/
theorem inBounds_iff (a n : Nat) : inBounds a n = true ↔ n = 0 ∨ a + n ≤ 4096 := by
  simp only [inBounds, Bool.or_eq_true, beq_iff_eq, decide_eq_true_eq]
  rfl

/-- The same for a data access through `I`. -/
theorem State.dataInBounds_iff (s : State) (n : Nat) : s.dataInBounds n = true ↔ n = 0 ∨ s.i.toNat + n ≤ 4096 :=
  inBounds_iff _ n

/-- The recorded address of an out-of-bounds data access. -/
theorem State.dataFaultAddr_toNat (s : State) : s.dataFaultAddr.toNat = max s.i.toNat 4096 := by
  have h := s.i.isLt
  simp only [State.dataFaultAddr, Config.memSize, BitVec.toNat_ofNat]
  omega

/-- A data access goes on to its effect, or raises `OutOfBounds` and does nothing else. -/
theorem State.access_cases (s : State) (n : Nat) (t : State) :
    ((n = 0 ∨ s.i.toNat + n ≤ 4096) ∧ s.access n t = .next t) ∨
    ((n ≠ 0 ∧ 4096 < s.i.toNat + n) ∧
      s.access n t = .next (s.raiseHere .outOfBounds (some s.dataFaultAddr))) := by
  by_cases h : s.dataInBounds n = true
  · exact .inl ⟨(s.dataInBounds_iff n).mp h, by rw [State.access, if_pos h]⟩
  · refine .inr ⟨?_, by rw [State.access, if_neg h]⟩
    rw [s.dataInBounds_iff] at h
    omega

/-! ## The call stack -/

/-- A push on a stack that is not full. -/
theorem State.push_of_lt (s : State) (w : Word) (h : s.sp.val < 16) :
    s.push w = some (s.setStack (s.stk.set s.sp.val w h) ⟨s.sp.val + 1, Nat.succ_lt_succ h⟩) := by
  rw [State.push, dif_pos h]

/-- A push on a full stack. -/
theorem State.push_of_full (s : State) (w : Word) (h : s.sp.val = 16) : s.push w = none := by
  rw [State.push, dif_neg (by omega)]

/-- A pop from a stack of `n + 1` entries. -/
theorem State.pop_of_succ (s : State) (n : Nat) (hn : n < 16) (h : s.sp.val = n + 1) :
    s.pop = some (s.stk[n], s.setStack s.stk ⟨n, Nat.lt_succ_of_lt hn⟩) := by
  have hsp : s.sp = ⟨n + 1, Nat.succ_lt_succ hn⟩ := Fin.ext h
  unfold State.pop
  split
  · rename_i h0 hz
    rw [hsp] at hz
    simp at hz
  · rename_i m hm he
    rw [hsp] at he
    have hmn : n = m := by simpa using he
    subst hmn
    rfl

/-- A pop from an empty stack. -/
theorem State.pop_of_zero (s : State) (h : s.sp.val = 0) : s.pop = none := by
  have hsp : s.sp = ⟨0, by omega⟩ := Fin.ext h
  unfold State.pop
  split
  · rfl
  · rename_i m hm he
    rw [hsp] at he
    simp at he

/-! ## Timers -/

/-- A count of a timer in exact arithmetic: down by 1 and never below 0. -/
@[simp] theorem countDown_toNat (b : Byte) : (countDown b).toNat = b.toNat - 1 := by
  unfold countDown
  by_cases h : b = 0
  · simp [h]
  · have h0 : b.toNat ≠ 0 := fun e => h (BitVec.eq_of_toNat_eq (by simpa using e))
    have hlt := b.isLt
    simp only [bne_iff_ne, ne_eq, h, not_false_eq_true, if_true, BitVec.toNat_sub]
    simp
    omega

/-! ## Fetch -/

/-- A fetch answers the word at `pc`, or fails above 4094. -/
theorem State.fetch_cases (s : State) :
    (s.pc.toNat ≤ 4094 ∧ s.fetch = some (Memory.readWord s.mem s.pc.toNat)) ∨ (4094 < s.pc.toNat ∧ s.fetch = none) := by
  unfold State.fetch
  split
  · exact .inr ⟨by assumption, rfl⟩
  · exact .inl ⟨by omega, rfl⟩

/-- The two bytes of a word make the word. -/
@[simp] theorem wordOfBytes_high_low (w : Word) : wordOfBytes (highByte w) (lowByte w) = w := by
  unfold wordOfBytes highByte lowByte
  ext i hi
  simp only [BitVec.getElem_append, BitVec.getElem_extractLsb']
  split
  · rw [Nat.zero_add, BitVec.getLsbD_eq_getElem]
  · rename_i h
    have h8 : 8 + (i - 8) = i := by omega
    rw [h8, BitVec.getLsbD_eq_getElem]

/-- A word read where it was written. -/
@[simp] theorem Memory.readWord_writeWord (m : Memory) (a : Nat) (w : Word) :
    Memory.readWord (Memory.writeWord m a w) a = w := by
  simp [Memory.readWord, Memory.writeWord, bytesOfWord, Memory.read_writeList]

/-! ## Faults -/

/-- A report exists exactly in a halted core. -/
theorem FaultRecord.report_eq_none (r : FaultRecord) : r.report = none ↔ r.kind = .none := by
  unfold FaultRecord.report
  split <;> simp_all

/-- The halted state, as a proposition. -/
@[simp] theorem State.halted_iff (s : State) : s.halted = true ↔ s.fault.kind ≠ .none := by
  simp [State.halted]

/-- The halted state, negated. -/
@[simp] theorem State.halted_eq_false (s : State) : s.halted = false ↔ s.fault.kind = .none := by
  simp [State.halted]

end Sys2Proof.Machine
end

