-- ==== Sys2Proof/Laws/Exec.lean ====
section
/-! SUPPORT. Sys2Proof/Laws/Exec.lean: what executing an instruction can do, said once: exec's next state is one of nineteen
updates of the state, each with the instructions that make it. -/

namespace Sys2Proof.Machine

/-- A call: it pushes and jumps, or the stack is full and it raises. -/
theorem execCall_cases (nnn : Imm12) (s : State) :
    (∃ h : s.sp.val < 16, execCall nnn s =
      .next ((s.setStack (s.stk.set s.sp.val s.pc h) ⟨s.sp.val + 1, Nat.succ_lt_succ h⟩).setPc (addrOfImm nnn))) ∨
    (s.sp.val = 16 ∧ execCall nnn s = .next (s.raiseHere .stackOverflow none)) := by
  by_cases h : s.sp.val < 16
  · exact .inl ⟨h, by simp [execCall, s.push_of_lt _ h]⟩
  · have := s.sp.isLt
    exact .inr ⟨by omega, by simp [execCall, s.push_of_full _ (by omega)]⟩

/-- A return: it pops into `pc`, or the stack is empty and it raises. -/
theorem execRet_cases (s : State) :
    (∃ (n : Nat) (h : n < 16), s.sp.val = n + 1 ∧
      execRet s = .next ((s.setStack s.stk ⟨n, Nat.lt_succ_of_lt h⟩).setPc s.stk[n])) ∨
    (s.sp.val = 0 ∧ execRet s = .next (s.raiseHere .stackUnderflow none)) := by
  by_cases h : s.sp.val = 0
  · exact .inr ⟨h, by simp [execRet, s.pop_of_zero h]⟩
  · have := s.sp.isLt
    exact .inl ⟨s.sp.val - 1, by omega, by omega, by simp [execRet, s.pop_of_succ (s.sp.val - 1) (by omega) (by omega)]⟩

/-- The ways `exec i s = .next t` comes about: which instruction, and `t` as an update of `s`. -/
inductive ExecCase (i : Instr) (s t : State) : Prop
  /-- 2nnn with room on the stack -/
  | call (nnn : Imm12) (h : s.sp.val < 16) (hi : i = .call nnn)
      (ht : t = (s.setStack (s.stk.set s.sp.val s.pc h) ⟨s.sp.val + 1, Nat.succ_lt_succ h⟩).setPc (addrOfImm nnn))
  /-- 2nnn on a full stack -/
  | callFault (nnn : Imm12) (h : s.sp.val = 16) (hi : i = .call nnn) (ht : t = s.raiseHere .stackOverflow none)
  /-- 00EE with a return address to pop -/
  | ret (n : Nat) (h : n < 16) (hsp : s.sp.val = n + 1) (hi : i = .ret)
      (ht : t = (s.setStack s.stk ⟨n, Nat.lt_succ_of_lt h⟩).setPc s.stk[n])
  /-- 00EE on an empty stack -/
  | retFault (hsp : s.sp.val = 0) (hi : i = .ret) (ht : t = s.raiseHere .stackUnderflow none)
  /-- Dxyn, Fx33, Fx55, Fx65 out of bounds: an access of `n` bytes -/
  | outOfBounds (n : Nat) (h0 : n ≠ 0) (h : 4096 < s.i.toNat + n)
      (hi : (∃ x y k, i = .drw x y k ∧ n = k.toNat) ∨ (∃ x, i = .ldBVx x ∧ n = 3) ∨
        (∃ x, (i = .ldMemVx x ∨ i = .ldVxMem x) ∧ n = x.toNat + 1))
      (ht : t = s.raiseHere .outOfBounds (some s.dataFaultAddr))
  /-- Fx33 and Fx55 in bounds: `n` bytes stored -/
  | store (n : Nat) (bytes : List Byte) (h : s.i.toNat + n ≤ 4096) (hn : bytes.length = n)
      (hi : (∃ x, i = .ldBVx x ∧ n = 3) ∨ (∃ x, i = .ldMemVx x ∧ n = x.toNat + 1))
      (ht : t = s.setMem (Memory.writeList s.mem s.i.toNat bytes))
  /-- Dxyn in bounds -/
  | draw (x y n : Nibble) (r : Grid × Bool) (h : n.toNat = 0 ∨ s.i.toNat + n.toNat ≤ 4096) (hi : i = .drw x y n)
      (ht : t = s.drawn r)
  /-- Fx65 in bounds -/
  | load (x : Nibble) (h : s.i.toNat + x.toNat + 1 ≤ 4096) (hi : i = .ldVxMem x) (ht : t = s.loadRegs x)
  /-- the six skips, taken (`c`) or not -/
  | skip (c : Bool)
      (hi : (∃ (x : Nibble) (kk : Byte), i = .seVxKk x kk ∨ i = .sneVxKk x kk) ∨
        (∃ x y, i = .seVxVy x y ∨ i = .sneVxVy x y) ∨ (∃ x, i = .skp x ∨ i = .sknp x))
      (ht : t = s.setPc (if c then s.pc + 2 else s.pc))
  /-- 1nnn -/
  | jump (nnn : Imm12) (hi : i = .jp nnn) (ht : t = s.setPc (addrOfImm nnn))
  /-- Bnnn -/
  | jumpV0 (nnn : Imm12) (hi : i = .jpV0 nnn) (ht : t = s.setPc (addrOfImm nnn + zext16 (s.reg 0)))
  /-- the instructions that write one register and no flag -/
  | reg (x : Nibble) (b : Byte)
      (hi : (∃ kk : Byte, i = .ldVxKk x kk ∨ i = .addVxKk x kk ∨ i = .rnd x kk) ∨
        (∃ y, i = .ldVxVy x y ∨ i = .orVxVy x y ∨ i = .andVxVy x y ∨ i = .xorVxVy x y) ∨ i = .ldVxDt x)
      (ht : t = s.setReg x b)
  /-- the five that write one register and the flag, in one order or the other -/
  | flag (x y : Nibble) (c : Bool) (b : Byte)
      (hi : i = .addVxVy x y ∨ i = .sub x y ∨ i = .shr x y ∨ i = .subn x y ∨ i = .shl x y)
      (ht : t = (s.setFlag c).setReg x b ∨ t = (s.setReg x b).setFlag c)
  /-- Annn, Fx1E, Fx29 -/
  | index (w : Word) (hi : (∃ nnn : Imm12, i = .ldINnn nnn) ∨ (∃ x : Nibble, i = .addIVx x ∨ i = .ldFVx x)) (ht : t = s.setI w)
  /-- 0nnn -/
  | nop (nnn : Imm12) (hi : i = .sys nnn) (ht : t = s)
  /-- 00E0 -/
  | clear (hi : i = .cls) (ht : t = s.setDisp blankGrid)
  /-- Fx15 -/
  | delay (x : Nibble) (hi : i = .ldDtVx x) (ht : t = s.setDt (s.reg x))
  /-- Fx18 -/
  | sound (x : Nibble) (hi : i = .ldStVx x) (ht : t = s.setSt (s.reg x))
  /-- Fx0A -/
  | waitKey (x : Nibble) (hi : i = .ldVxK x) (ht : t = s.enterWait x)

/-- A next state of an instruction is one of the cases. -/
theorem exec_cases {i : Instr} {s t : State} (h : exec i s = .next t) : ExecCase i s t := by
  cases i
  case call nnn =>
    rcases execCall_cases nnn s with ⟨h1, e⟩ | ⟨h1, e⟩ <;> rw [exec, e] at h <;> cases h
    · exact .call nnn h1 rfl rfl
    · exact .callFault nnn h1 rfl rfl
  case ret =>
    rcases execRet_cases s with ⟨n, h1, h2, e⟩ | ⟨h1, e⟩ <;> rw [exec, e] at h <;> cases h
    · exact .ret n h1 h2 rfl rfl
    · exact .retFault h1 rfl rfl
  case ldBVx x =>
    rcases s.access_cases 3 (s.setMem (Memory.writeList s.mem (s.ea 0) (digits (s.reg x)))) with ⟨h1, e⟩ | ⟨h1, e⟩
    · rw [exec, execLdBVx, e] at h; cases h
      exact .store 3 _ (by omega) rfl (by simp) rfl
    · rw [exec, execLdBVx, e] at h; cases h
      exact .outOfBounds 3 (by omega) h1.2 (by simp) rfl
  case ldMemVx x =>
    rcases s.access_cases (regCount x) (s.setMem (Memory.writeList s.mem (s.ea 0) (s.regsUpTo x))) with ⟨h1, e⟩ | ⟨h1, e⟩
    · rw [exec, execLdMemVx, e] at h; cases h
      refine .store (x.toNat + 1) _ (by unfold regCount at h1; omega) ?_ (by simp) rfl
      have := x.isLt
      simp [State.regsUpTo, regCount]; omega
    · rw [exec, execLdMemVx, e] at h; cases h
      exact .outOfBounds (x.toNat + 1) (by omega) h1.2 (by simp) rfl
  case ldVxMem x =>
    rcases s.access_cases (regCount x) (s.loadRegs x) with ⟨h1, e⟩ | ⟨h1, e⟩
    · rw [exec, execLdVxMem, e] at h; cases h
      exact .load x (by unfold regCount at h1; omega) rfl rfl
    · rw [exec, execLdVxMem, e] at h; cases h
      exact .outOfBounds (x.toNat + 1) (by omega) h1.2 (by simp) rfl
  case drw x y n =>
    rcases s.access_cases n.toNat (s.drawn (Machine.draw s.disp (s.reg x) (s.reg y) (s.spriteBytes n))) with ⟨h1, e⟩ | ⟨h1, e⟩
    · rw [exec, execDrw, e] at h; cases h
      exact .draw x y n _ h1 rfl rfl
    · rw [exec, execDrw, e] at h; cases h
      exact .outOfBounds n.toNat h1.1 h1.2 (by simp) rfl
  all_goals simp only [exec] at h; cases h
  case cls => exact .clear rfl rfl
  case sys n => exact .nop n rfl rfl
  case jp n => exact .jump n rfl rfl
  case jpV0 n => exact .jumpV0 n rfl rfl
  case seVxKk => rw [State.skipIf_eq]; exact .skip _ (by simp) rfl
  case sneVxKk => rw [State.skipIf_eq]; exact .skip _ (by simp) rfl
  case seVxVy => rw [State.skipIf_eq]; exact .skip _ (by simp) rfl
  case sneVxVy => rw [State.skipIf_eq]; exact .skip _ (by simp) rfl
  case skp => rw [State.skipIf_eq]; exact .skip _ (by simp) rfl
  case sknp => rw [State.skipIf_eq]; exact .skip _ (by simp) rfl
  case ldDtVx x => exact .delay x rfl rfl
  case ldStVx x => exact .sound x rfl rfl
  case ldVxK x => exact .waitKey x rfl rfl
  case ldINnn => exact .index _ (by simp) rfl
  case addIVx => exact .index _ (by simp) rfl
  case ldFVx => exact .index _ (by simp) rfl
  case addVxVy => exact .flag _ _ _ _ (by simp; rfl) (.inr rfl)
  case sub => exact .flag _ _ _ _ (by simp; rfl) (.inl rfl)
  case shr => exact .flag _ _ _ _ (by simp; rfl) (.inl rfl)
  case subn => exact .flag _ _ _ _ (by simp; rfl) (.inl rfl)
  case shl => exact .flag _ _ _ _ (by simp; rfl) (.inl rfl)
  all_goals exact .reg _ _ (by simp) rfl

end Sys2Proof.Machine
end

