-- ==== Sys2Proof/Laws/PerInstr.lean ====
section
/-! SUPPORT. Sys2Proof/Laws/PerInstr.lean: the family TableMatch, one lemma per instruction: the encoder's word has the match
and mask of the instruction's row of 30_encoding.md R94 (the two columns are written in Decode.lean apart from the encoder). -/

/-- The word of the instruction is matched by its own row of the opcode map. -/
def Sys2Proof.Laws.TableMatch.Statement (i : Sys2Proof.Instr) : Prop :=
  Sys2Proof.encode i &&& i.mask = i.pattern

theorem Sys2Proof.Laws.TableMatch.cls :
    Sys2Proof.Laws.TableMatch.Statement (.cls) := rfl

theorem Sys2Proof.Laws.TableMatch.ret :
    Sys2Proof.Laws.TableMatch.Statement (.ret) := rfl

theorem Sys2Proof.Laws.TableMatch.sys (nnn : Imm12) :
    Sys2Proof.Laws.TableMatch.Statement (.sys nnn) :=
  Sys2Proof.mask_nnn 0x0#4 nnn

theorem Sys2Proof.Laws.TableMatch.jp (nnn : Imm12) :
    Sys2Proof.Laws.TableMatch.Statement (.jp nnn) :=
  Sys2Proof.mask_nnn 0x1#4 nnn

theorem Sys2Proof.Laws.TableMatch.call (nnn : Imm12) :
    Sys2Proof.Laws.TableMatch.Statement (.call nnn) :=
  Sys2Proof.mask_nnn 0x2#4 nnn

theorem Sys2Proof.Laws.TableMatch.seVxKk (x : Nibble) (kk : Byte) :
    Sys2Proof.Laws.TableMatch.Statement (.seVxKk x kk) :=
  Sys2Proof.mask_xkk 0x3#4 x kk

theorem Sys2Proof.Laws.TableMatch.sneVxKk (x : Nibble) (kk : Byte) :
    Sys2Proof.Laws.TableMatch.Statement (.sneVxKk x kk) :=
  Sys2Proof.mask_xkk 0x4#4 x kk

theorem Sys2Proof.Laws.TableMatch.seVxVy (x y : Nibble) :
    Sys2Proof.Laws.TableMatch.Statement (.seVxVy x y) :=
  Sys2Proof.mask_xyn_sub 0x5#4 x y 0x0#4

theorem Sys2Proof.Laws.TableMatch.ldVxKk (x : Nibble) (kk : Byte) :
    Sys2Proof.Laws.TableMatch.Statement (.ldVxKk x kk) :=
  Sys2Proof.mask_xkk 0x6#4 x kk

theorem Sys2Proof.Laws.TableMatch.addVxKk (x : Nibble) (kk : Byte) :
    Sys2Proof.Laws.TableMatch.Statement (.addVxKk x kk) :=
  Sys2Proof.mask_xkk 0x7#4 x kk

theorem Sys2Proof.Laws.TableMatch.ldVxVy (x y : Nibble) :
    Sys2Proof.Laws.TableMatch.Statement (.ldVxVy x y) :=
  Sys2Proof.mask_xyn_sub 0x8#4 x y 0x0#4

theorem Sys2Proof.Laws.TableMatch.orVxVy (x y : Nibble) :
    Sys2Proof.Laws.TableMatch.Statement (.orVxVy x y) :=
  Sys2Proof.mask_xyn_sub 0x8#4 x y 0x1#4

theorem Sys2Proof.Laws.TableMatch.andVxVy (x y : Nibble) :
    Sys2Proof.Laws.TableMatch.Statement (.andVxVy x y) :=
  Sys2Proof.mask_xyn_sub 0x8#4 x y 0x2#4

theorem Sys2Proof.Laws.TableMatch.xorVxVy (x y : Nibble) :
    Sys2Proof.Laws.TableMatch.Statement (.xorVxVy x y) :=
  Sys2Proof.mask_xyn_sub 0x8#4 x y 0x3#4

theorem Sys2Proof.Laws.TableMatch.addVxVy (x y : Nibble) :
    Sys2Proof.Laws.TableMatch.Statement (.addVxVy x y) :=
  Sys2Proof.mask_xyn_sub 0x8#4 x y 0x4#4

theorem Sys2Proof.Laws.TableMatch.sub (x y : Nibble) :
    Sys2Proof.Laws.TableMatch.Statement (.sub x y) :=
  Sys2Proof.mask_xyn_sub 0x8#4 x y 0x5#4

theorem Sys2Proof.Laws.TableMatch.shr (x y : Nibble) :
    Sys2Proof.Laws.TableMatch.Statement (.shr x y) :=
  Sys2Proof.mask_xyn_sub 0x8#4 x y 0x6#4

theorem Sys2Proof.Laws.TableMatch.subn (x y : Nibble) :
    Sys2Proof.Laws.TableMatch.Statement (.subn x y) :=
  Sys2Proof.mask_xyn_sub 0x8#4 x y 0x7#4

theorem Sys2Proof.Laws.TableMatch.shl (x y : Nibble) :
    Sys2Proof.Laws.TableMatch.Statement (.shl x y) :=
  Sys2Proof.mask_xyn_sub 0x8#4 x y 0xE#4

theorem Sys2Proof.Laws.TableMatch.sneVxVy (x y : Nibble) :
    Sys2Proof.Laws.TableMatch.Statement (.sneVxVy x y) :=
  Sys2Proof.mask_xyn_sub 0x9#4 x y 0x0#4

theorem Sys2Proof.Laws.TableMatch.ldINnn (nnn : Imm12) :
    Sys2Proof.Laws.TableMatch.Statement (.ldINnn nnn) :=
  Sys2Proof.mask_nnn 0xA#4 nnn

theorem Sys2Proof.Laws.TableMatch.jpV0 (nnn : Imm12) :
    Sys2Proof.Laws.TableMatch.Statement (.jpV0 nnn) :=
  Sys2Proof.mask_nnn 0xB#4 nnn

theorem Sys2Proof.Laws.TableMatch.rnd (x : Nibble) (kk : Byte) :
    Sys2Proof.Laws.TableMatch.Statement (.rnd x kk) :=
  Sys2Proof.mask_xkk 0xC#4 x kk

theorem Sys2Proof.Laws.TableMatch.drw (x y n : Nibble) :
    Sys2Proof.Laws.TableMatch.Statement (.drw x y n) :=
  Sys2Proof.mask_xyn 0xD#4 x y n

theorem Sys2Proof.Laws.TableMatch.skp (x : Nibble) :
    Sys2Proof.Laws.TableMatch.Statement (.skp x) :=
  Sys2Proof.mask_xkk_sub 0xE#4 x 0x9E#8

theorem Sys2Proof.Laws.TableMatch.sknp (x : Nibble) :
    Sys2Proof.Laws.TableMatch.Statement (.sknp x) :=
  Sys2Proof.mask_xkk_sub 0xE#4 x 0xA1#8

theorem Sys2Proof.Laws.TableMatch.ldVxDt (x : Nibble) :
    Sys2Proof.Laws.TableMatch.Statement (.ldVxDt x) :=
  Sys2Proof.mask_xkk_sub 0xF#4 x 0x07#8

theorem Sys2Proof.Laws.TableMatch.ldVxK (x : Nibble) :
    Sys2Proof.Laws.TableMatch.Statement (.ldVxK x) :=
  Sys2Proof.mask_xkk_sub 0xF#4 x 0x0A#8

theorem Sys2Proof.Laws.TableMatch.ldDtVx (x : Nibble) :
    Sys2Proof.Laws.TableMatch.Statement (.ldDtVx x) :=
  Sys2Proof.mask_xkk_sub 0xF#4 x 0x15#8

theorem Sys2Proof.Laws.TableMatch.ldStVx (x : Nibble) :
    Sys2Proof.Laws.TableMatch.Statement (.ldStVx x) :=
  Sys2Proof.mask_xkk_sub 0xF#4 x 0x18#8

theorem Sys2Proof.Laws.TableMatch.addIVx (x : Nibble) :
    Sys2Proof.Laws.TableMatch.Statement (.addIVx x) :=
  Sys2Proof.mask_xkk_sub 0xF#4 x 0x1E#8

theorem Sys2Proof.Laws.TableMatch.ldFVx (x : Nibble) :
    Sys2Proof.Laws.TableMatch.Statement (.ldFVx x) :=
  Sys2Proof.mask_xkk_sub 0xF#4 x 0x29#8

theorem Sys2Proof.Laws.TableMatch.ldBVx (x : Nibble) :
    Sys2Proof.Laws.TableMatch.Statement (.ldBVx x) :=
  Sys2Proof.mask_xkk_sub 0xF#4 x 0x33#8

theorem Sys2Proof.Laws.TableMatch.ldMemVx (x : Nibble) :
    Sys2Proof.Laws.TableMatch.Statement (.ldMemVx x) :=
  Sys2Proof.mask_xkk_sub 0xF#4 x 0x55#8

theorem Sys2Proof.Laws.TableMatch.ldVxMem (x : Nibble) :
    Sys2Proof.Laws.TableMatch.Statement (.ldVxMem x) :=
  Sys2Proof.mask_xkk_sub 0xF#4 x 0x65#8
end

