-- ==== Sys2Proof/Laws/Step.lean ====
section
/-! SUPPORT. Sys2Proof/Laws/Step.lean: what a step can do, said once. -/

namespace Sys2Proof.Machine

/-- Fetch, decode, execute: the three ways it goes. -/
theorem State.runOne_cases (s : State) :
    (4094 < s.pc.toNat ∧ s.runOne = .next (s.raise .outOfBounds s.pc none (some s.pc))) ∨
    (s.pc.toNat ≤ 4094 ∧ decode (Memory.readWord s.mem s.pc.toNat) = none ∧
      s.runOne = .next (s.raise .invalidInstruction s.pc (some (Memory.readWord s.mem s.pc.toNat)) none)) ∨
    (∃ i : Instr, s.pc.toNat ≤ 4094 ∧ decode (Memory.readWord s.mem s.pc.toNat) = some i ∧
      s.runOne = exec i (s.advance (Memory.readWord s.mem s.pc.toNat))) := by
  rcases s.fetch_cases with ⟨hpc, hf⟩ | ⟨hpc, hf⟩
  · cases hd : decode (Memory.readWord s.mem s.pc.toNat) with
    | none => exact .inr (.inl ⟨hpc, rfl, by simp [State.runOne, hf, hd]⟩)
    | some i => exact .inr (.inr ⟨i, hpc, rfl, by simp [State.runOne, hf, hd]⟩)
  · exact .inl ⟨hpc, by simp [State.runOne, hf]⟩

/-- A next state after an event of the host. -/
theorem State.deliver_cases {s t : State} {e : HostEvent} (h : s.deliver e = .next t) :
    (e = .reset ∧ t = s.onReset) ∨
    (∃ bytes, e = .load bytes ∧ s.env.started = false ∧ t = s.onLoad bytes) ∨
    (e = .timerTick ∧ t = s.onTimerTick) ∨
    (∃ k, e = .keyPress k ∧ t = s.onKeyPress k) := by
  cases e with
  | reset => exact .inl ⟨rfl, by simpa [State.deliver] using h.symm⟩
  | load bytes =>
    simp only [State.deliver] at h
    split at h
    · cases h
    · exact .inr (.inl ⟨bytes, rfl, by simp_all, by simpa using h.symm⟩)
  | timerTick => exact .inr (.inr (.inl ⟨rfl, by simpa [State.deliver] using h.symm⟩))
  | keyPress k => exact .inr (.inr (.inr ⟨k, rfl, by simpa [State.deliver] using h.symm⟩))

/-- A step that answers a next state has delivered an event, waited, faulted in fetch or decode, or run one instruction. -/
theorem step_cases {s t : State} (h : step s = .next t) :
    (∃ e rest, s.env.inbox = e :: rest ∧ (s.withInbox rest).deliver e = .next t) ∨
    (s.env.inbox = [] ∧ s.fault.kind = .none ∧ s.wait = true ∧ t = s.endTick) ∨
    (s.Ready ∧ 4094 < s.pc.toNat ∧ t = (s.sampled.raise .outOfBounds s.pc none (some s.pc)).endTick) ∨
    (s.Ready ∧ s.pc.toNat ≤ 4094 ∧ decode (Memory.readWord s.mem s.pc.toNat) = none ∧
      t = (s.sampled.raise .invalidInstruction s.pc (some (Memory.readWord s.mem s.pc.toNat)) none).endTick) ∨
    (∃ w i u, s.Fetches w i ∧ exec i (s.sampled.advance w) = .next u ∧ t = u.endTick) := by
  unfold step at h
  cases hin : s.env.inbox with
  | cons e rest => exact .inl ⟨e, rest, rfl, by simpa [hin] using h⟩
  | nil =>
    rw [hin] at h
    simp only [State.instrTick] at h
    split at h
    · cases h
    · rename_i hr
      have hk := (FaultRecord.report_eq_none _).mp hr
      split at h
      · rename_i hw
        exact .inr (.inl ⟨rfl, hk, hw, by simpa using h.symm⟩)
      · rename_i hw
        have hw : s.wait = false := by simpa using hw
        rcases s.sampled.runOne_cases with ⟨hpc, hrun⟩ | ⟨hpc, hd, hrun⟩ | ⟨i, hpc, hd, hrun⟩
        · rw [hrun] at h
          exact .inr (.inr (.inl ⟨⟨hin, hk, hw⟩, hpc, by simpa [endOfTick] using h.symm⟩))
        · rw [hrun] at h
          exact .inr (.inr (.inr (.inl ⟨⟨hin, hk, hw⟩, hpc, hd, by simpa [endOfTick] using h.symm⟩)))
        · rw [hrun] at h
          cases hx : exec i (s.sampled.advance (Memory.readWord s.sampled.mem s.sampled.pc.toNat)) with
          | next u =>
            rw [hx] at h
            exact .inr (.inr (.inr (.inr ⟨_, i, u, ⟨⟨hin, hk, hw⟩, hpc, rfl, hd⟩, hx, by simpa [endOfTick] using h.symm⟩)))
          | fault f => rw [hx] at h; cases h
          | refused r => rw [hx] at h; cases h

/-- A word placed for the next step is what the next step fetches, from any state. -/
theorem State.withFetch_fetches (s : State) (w : Word) (i : Instr) (h : decode w = some i) :
    (s.withFetch w).Fetches w i := by
  refine ⟨⟨rfl, rfl, rfl⟩, ?_, Memory.readWord_writeWord _ _ _, h⟩
  simp only [State.withFetch]
  split
  · decide
  · omega

end Sys2Proof.Machine
end

