-- ==== Sys2Proof/Tests/Slice0.lean ====
section
/-! SUPPORT. Sys2Proof/Tests/Slice0.lean: the model's tests. The words and the expected results are those of the spec: of
30_encoding.md R94 and R96, and of the vectors of 95_test_vectors.md (V<n>, S<n>), which each theorem names. The last part
holds, for every statement of Certificates/Slice0/Obligations.lean with hypotheses, states and operands that meet them. -/

namespace Sys2Proof.Tests

open Sys2Proof Sys2Proof.Machine

/-! ## Helpers -/

/-- A start state of 95_test_vectors.md: reset, with the word `w` at 0x200. -/
def start (w : Word) : State := State.reset.withFetch w

/-- The outcome is a next state that meets `p`. -/
def ok (r : Host.Outcome State Fault Refusal) (p : State → Bool) : Bool :=
  match r with
  | .next t => p t
  | .fault _ => false
  | .refused _ => false

/-- The outcome is this fault. -/
def stops (r : Host.Outcome State Fault Refusal) (f : Fault) : Bool :=
  match r with
  | .next _ => false
  | .fault g => g == f
  | .refused _ => false

/-- The outcome is this refusal. -/
def refuses (r : Host.Outcome State Fault Refusal) (x : Refusal) : Bool :=
  match r with
  | .next _ => false
  | .fault _ => false
  | .refused y => y == x

/-- The state with a byte stored. -/
def poke (s : State) (a : Nat) (b : Byte) : State := s.setMem (Memory.write s.mem a b)

/-- The state with this event next. -/
def send (s : State) (e : HostEvent) : State := s.withInbox [e]

/-- The state with this many return addresses on the stack, 0x0ABC each. -/
def deep (s : State) (n : Fin 17) : State := s.setStack (Vector.replicate 16 0x0ABC) n

/-- The state of a core halted by a fault of this kind at 0x200. -/
def haltedBy (kind : FaultKind) (ir addr : Word) (s : State) : State :=
  { s with fault := { kind := kind, pc0 := 0x200, ir := ir, addr := addr } }

/-! ## WellFormed: the one check, 30_encoding.md R93 -/

theorem test_wf_refuses_sys_0E0 : (Instr.sys 0x0E0).wf = false := by decide

theorem test_wf_refuses_sys_0EE : (Instr.sys 0x0EE).wf = false := by decide

theorem test_wf_accepts_neighbours :
    (Instr.sys 0x0E1).wf = true ∧ (Instr.sys 0x000).wf = true ∧ Instr.cls.wf = true ∧ Instr.ret.wf = true := by decide

/-! ## Decode: words from the patterns of 30_encoding.md R94, every constructor -/

/-- rows 1 to 3, with V5, V6, V7 -/
theorem test_decode_major_0 :
    decode 0x00E0 = some .cls ∧ decode 0x00EE = some .ret ∧ decode 0x00E1 = some (.sys 0x0E1) ∧
    decode 0x00EF = some (.sys 0x0EF) ∧ decode 0x0000 = some (.sys 0x000) ∧ decode 0x0FFF = some (.sys 0xFFF) := by decide

/-- rows 4, 5, 22 -/
theorem test_decode_jumps :
    decode 0b0001_1010_1011_1100 = some (.jp 0xABC) ∧ decode 0b0010_0010_0001_0000 = some (.call 0x210) ∧
    decode 0b1011_0011_0000_0001 = some (.jpV0 0x301) := by decide

/-- rows 6, 7, 8, 20 -/
theorem test_decode_skips :
    decode 0b0011_1010_0000_0101 = some (.seVxKk 0xA 0x05) ∧ decode 0b0100_1010_0000_0101 = some (.sneVxKk 0xA 0x05) ∧
    decode 0b0101_0001_0010_0000 = some (.seVxVy 0x1 0x2) ∧ decode 0b1001_0001_0010_0000 = some (.sneVxVy 0x1 0x2) := by decide

/-- rows 9, 10, 11, 23 -/
theorem test_decode_loads :
    decode 0b0110_1010_0010_1100 = some (.ldVxKk 0xA 0x2C) ∧ decode 0b0111_0001_0000_0010 = some (.addVxKk 0x1 0x02) ∧
    decode 0b1000_0001_0010_0000 = some (.ldVxVy 0x1 0x2) ∧ decode 0b1100_0011_0000_1111 = some (.rnd 0x3 0x0F) := by decide

/-- rows 12 to 19; the `y` field of 8xy6 and 8xyE may be anything (R98) -/
theorem test_decode_alu :
    decode 0b1000_0001_0010_0001 = some (.orVxVy 0x1 0x2) ∧ decode 0b1000_0001_0010_0010 = some (.andVxVy 0x1 0x2) ∧
    decode 0b1000_0001_0010_0011 = some (.xorVxVy 0x1 0x2) ∧ decode 0b1000_0001_0010_0100 = some (.addVxVy 0x1 0x2) ∧
    decode 0b1000_0001_0010_0101 = some (.sub 0x1 0x2) ∧ decode 0b1000_0001_1111_0110 = some (.shr 0x1 0xF) ∧
    decode 0b1000_0001_0010_0111 = some (.subn 0x1 0x2) ∧ decode 0b1000_0001_0000_1110 = some (.shl 0x1 0x0) := by decide

/-- rows 21, 24; Dxy0 is valid (R96) -/
theorem test_decode_index_and_draw :
    decode 0b1010_0010_1111_0000 = some (.ldINnn 0x2F0) ∧ decode 0b1101_0001_0010_0101 = some (.drw 0x1 0x2 0x5) ∧
    decode 0xD120 = some (.drw 0x1 0x2 0x0) := by decide

/-- rows 25 to 35 -/
theorem test_decode_keys_and_misc :
    decode 0b1110_0010_1001_1110 = some (.skp 0x2) ∧ decode 0b1110_0010_1010_0001 = some (.sknp 0x2) ∧
    decode 0b1111_0011_0000_0111 = some (.ldVxDt 0x3) ∧ decode 0b1111_0001_0000_1010 = some (.ldVxK 0x1) ∧
    decode 0b1111_0011_0001_0101 = some (.ldDtVx 0x3) ∧ decode 0b1111_0000_0001_1000 = some (.ldStVx 0x0) ∧
    decode 0b1111_0010_0001_1110 = some (.addIVx 0x2) ∧ decode 0b1111_0100_0010_1001 = some (.ldFVx 0x4) ∧
    decode 0b1111_0000_0011_0011 = some (.ldBVx 0x0) ∧ decode 0b1111_0001_0101_0101 = some (.ldMemVx 0x1) ∧
    decode 0b1111_0010_0110_0101 = some (.ldVxMem 0x2) := by decide

/-- S9, V8 to V12: the words of R96 -/
theorem test_decode_invalid :
    [0x5001#16, 0x5AB1#16, 0x5ABF#16, 0x8AB8#16, 0x8AB9#16, 0x8ABA#16, 0x8ABB#16, 0x8ABC#16, 0x8ABD#16, 0x8ABF#16, 0x9AB1#16,
      0xE09D#16, 0xE09F#16, 0xE0A0#16, 0xE0A2#16, 0xE000#16, 0xE0FF#16].all (fun w => decode w == none) = true ∧
    [0xF000#16, 0xF008#16, 0xF00B#16, 0xF016#16, 0xF01F#16, 0xF030#16, 0xF056#16, 0xF066#16, 0xF075#16, 0xF085#16,
      0xF0FF#16].all (fun w => decode w == none) = true := by decide

/-- the same decoder on bytes, high byte first (R64), rejecting by name -/
theorem test_decode_bytes :
    decodeBytes [0x3A, 0x05, 0x77] = .instr (.seVxKk 0xA 0x05) [0x77] ∧
    decodeBytes [0x50, 0x01] = .invalidInstruction 0x5001 ∧ decodeBytes [0x50] = .truncated := by decide

/-! ## One step of each instruction -/

/-- V7 -/
theorem test_sys : ok (step (start 0x0FFF)) (fun t => t.pc == 0x202 && t.v == State.reset.v && t.i == 0) = true := by decide

/-- V20 -/
theorem test_jp : ok (step (start 0x1ABC)) (fun t => t.pc == 0x0ABC) = true := by decide

/-- V21: an odd target is legal -/
theorem test_jp_odd : ok (step (start 0x1201)) (fun t => t.pc == 0x0201 && t.fault.kind == .none) = true := by decide

/-- V24 -/
theorem test_call :
    ok (step (start 0x2ABC)) (fun t => t.pc == 0x0ABC && t.sp == 1 && t.stk[0] == 0x0202) = true := by decide

/-- V25: the 16th call succeeds -/
theorem test_call_last :
    ok (step (deep (start 0x2ABC) 15)) (fun t => t.pc == 0x0ABC && t.sp == 16 && t.stk[15] == 0x0202) = true := by decide

/-- V27 -/
theorem test_ret : ok (step (deep (start 0x00EE) 1)) (fun t => t.pc == 0x0ABC && t.sp == 0) = true := by decide

/-- V29 -/
theorem test_jpV0 : ok (step ((start 0xB300).setReg 0 0x04)) (fun t => t.pc == 0x0304) = true := by decide

/-- V30: no 12-bit mask -/
theorem test_jpV0_top : ok (step ((start 0xBFFF).setReg 0 0xFF)) (fun t => t.pc == 0x10FE) = true := by decide

/-- S4, V32 and V33 -/
theorem test_seVxKk :
    ok (step ((start 0x3A05).setReg 0xA 5)) (fun t => t.pc == 0x204) = true ∧
    ok (step ((start 0x3A05).setReg 0xA 4)) (fun t => t.pc == 0x202) = true := by decide

/-- V34 and V35 -/
theorem test_sneVxKk :
    ok (step ((start 0x4A05).setReg 0xA 5)) (fun t => t.pc == 0x202) = true ∧
    ok (step ((start 0x4A05).setReg 0xA 4)) (fun t => t.pc == 0x204) = true := by decide

/-- V36 and V37 -/
theorem test_seVxVy :
    ok (step (((start 0x5120).setReg 1 0x7E).setReg 2 0x7E)) (fun t => t.pc == 0x204) = true ∧
    ok (step (((start 0x5120).setReg 1 0x7E).setReg 2 0x7F)) (fun t => t.pc == 0x202) = true := by decide

/-- V39 and V40 -/
theorem test_sneVxVy :
    ok (step (((start 0x9120).setReg 1 0x7E).setReg 2 0x7F)) (fun t => t.pc == 0x204) = true ∧
    ok (step ((start 0x9110).setReg 1 0x7E)) (fun t => t.pc == 0x202) = true := by decide

/-- V50 and V51 -/
theorem test_ldVxKk :
    ok (step (start 0x60AB)) (fun t => t.reg 0 == 0xAB && t.reg 0xF == 0 && t.pc == 0x202) = true ∧
    ok (step (start 0x6F12)) (fun t => t.reg 0xF == 0x12) = true := by decide

/-- V52 and V54: the sum, not a carry -/
theorem test_addVxKk :
    ok (step ((start 0x7002).setReg 0 0xFF)) (fun t => t.reg 0 == 0x01 && t.reg 0xF == 0) = true ∧
    ok (step ((start 0x7F01).setReg 0xF 0xFF)) (fun t => t.reg 0xF == 0x00) = true := by decide

/-- V55 -/
theorem test_ldVxVy : ok (step ((start 0x8010).setReg 1 0x5A)) (fun t => t.reg 0 == 0x5A) = true := by decide

/-- V56: the flag is left alone -/
theorem test_orVxVy :
    ok (step ((((start 0x8011).setReg 0 0xF0).setReg 1 0x0F).setReg 0xF 1)) (fun t => t.reg 0 == 0xFF && t.reg 0xF == 1) = true := by
  decide

/-- V57 -/
theorem test_andVxVy :
    ok (step ((((start 0x8012).setReg 0 0xF3).setReg 1 0x3F).setReg 0xF 1)) (fun t => t.reg 0 == 0x33 && t.reg 0xF == 1) = true := by
  decide

/-- V58 -/
theorem test_xorVxVy :
    ok (step ((((start 0x8013).setReg 0 0xF3).setReg 1 0x3F).setReg 0xF 1)) (fun t => t.reg 0 == 0xCC && t.reg 0xF == 1) = true := by
  decide

/-- S2, V60 and V62 -/
theorem test_addVxVy :
    ok (step (((start 0x8014).setReg 0 0xFF).setReg 1 0x01)) (fun t => t.reg 0 == 0x00 && t.reg 0xF == 1) = true ∧
    ok (step (((start 0x8014).setReg 0 0x7F).setReg 1 0x80)) (fun t => t.reg 0 == 0xFF && t.reg 0xF == 0) = true := by decide

/-- V65: x = F, the carry is written last -/
theorem test_addVxVy_flag_destination :
    ok (step (((start 0x8F14).setReg 0xF 0xFF).setReg 1 0x01)) (fun t => t.reg 0xF == 0x01) = true := by decide

/-- S3, V67 and V68 -/
theorem test_sub :
    ok (step (((start 0x8015).setReg 0 0x01).setReg 1 0x01)) (fun t => t.reg 0 == 0x00 && t.reg 0xF == 1) = true ∧
    ok (step (((start 0x8015).setReg 0 0x00).setReg 1 0x01)) (fun t => t.reg 0 == 0xFF && t.reg 0xF == 0) = true := by decide

/-- V71 (x = F: the difference is written last) and V72 (y = F: operands sampled before the flag write) -/
theorem test_sub_flag_operands :
    ok (step (((start 0x8F15).setReg 0xF 0x05).setReg 1 0x03)) (fun t => t.reg 0xF == 0x02) = true ∧
    ok (step (((start 0x80F5).setReg 0 0x05).setReg 0xF 0x03)) (fun t => t.reg 0 == 0x02 && t.reg 0xF == 1) = true := by decide

/-- V73 -/
theorem test_shr :
    ok (step (((start 0x8016).setReg 0 0x05).setReg 1 0xFF)) (fun t => t.reg 0 == 0x02 && t.reg 0xF == 1 && t.reg 1 == 0xFF) = true := by
  decide

/-- V78: x = F, the shifted value is written last -/
theorem test_shr_flag_destination : ok (step ((start 0x8F16).setReg 0xF 0x02)) (fun t => t.reg 0xF == 0x01) = true := by decide

/-- V79 and V80 -/
theorem test_subn :
    ok (step (((start 0x8017).setReg 0 0x01).setReg 1 0x03)) (fun t => t.reg 0 == 0x02 && t.reg 0xF == 1) = true ∧
    ok (step (((start 0x8017).setReg 0 0x03).setReg 1 0x01)) (fun t => t.reg 0 == 0xFE && t.reg 0xF == 0) = true := by decide

/-- V82 and V83 -/
theorem test_shl :
    ok (step ((start 0x801E).setReg 0 0x81)) (fun t => t.reg 0 == 0x02 && t.reg 0xF == 1) = true ∧
    ok (step ((start 0x801E).setReg 0 0x40)) (fun t => t.reg 0 == 0x80 && t.reg 0xF == 0) = true := by decide

/-- V85: x = F -/
theorem test_shl_flag_destination : ok (step ((start 0x8F1E).setReg 0xF 0x81)) (fun t => t.reg 0xF == 0x02) = true := by decide

/-- V86, on `exec` with the random input of the vector -/
theorem test_rnd :
    ok (exec (.rnd 0 0x0F) { State.reset with env := { State.reset.env with rnd := 0xA7 } }) (fun t => t.reg 0 == 0x07) = true := by
  decide

/-- V100 -/
theorem test_ldINnn : ok (step (start 0xA123)) (fun t => t.i == 0x0123) = true := by decide

/-- V102 and V103 -/
theorem test_addIVx :
    ok (step (((start 0xF01E).setI 0x0FFE).setReg 0 0x05)) (fun t => t.i == 0x1003 && t.reg 0xF == 0 && t.fault.kind == .none) = true ∧
    ok (step (((start 0xF01E).setI 0xFFFF).setReg 0 0x02)) (fun t => t.i == 0x0001) = true := by decide

/-- V105 and V107: no mask -/
theorem test_ldFVx :
    ok (step ((start 0xF029).setReg 0 0x0A)) (fun t => t.i == 0x0082) = true ∧
    ok (step ((start 0xF029).setReg 0 0xFF)) (fun t => t.i == 0x054B) = true := by decide

/-- V108 -/
theorem test_ldBVx :
    ok (step (((start 0xF033).setReg 0 0xFE).setI 0x300))
      (fun t => Memory.readList t.mem 0x300 3 == [0x02, 0x05, 0x04] && t.i == 0x300) = true := by decide

/-- V113: the last three bytes -/
theorem test_ldBVx_top :
    ok (step (((start 0xF033).setReg 0 0x64).setI 0x0FFD))
      (fun t => Memory.readList t.mem 0xFFD 3 == [0x01, 0x00, 0x00] && t.fault.kind == .none) = true := by decide

/-- V115 -/
theorem test_ldMemVx :
    ok (step (((((start 0xF255).setReg 0 0x11).setReg 1 0x22).setReg 2 0x33).setI 0x300))
      (fun t => Memory.readList t.mem 0x300 4 == [0x11, 0x22, 0x33, 0x00] && t.i == 0x300) = true := by decide

/-- V124: the font is not protected; its byte 0xF0 becomes 00 -/
theorem test_ldMemVx_font :
    ok (step ((start 0xF055).setI 0x0050)) (fun t => Memory.readList t.mem 0x50 2 == [0x00, 0x90]) = true := by decide

/-- V121 -/
theorem test_ldVxMem :
    ok (step ((poke (poke (poke (start 0xF265) 0x300 0x11) 0x301 0x22) 0x302 0x33).setI 0x300))
      (fun t => t.reg 0 == 0x11 && t.reg 1 == 0x22 && t.reg 2 == 0x33 && t.reg 3 == 0 && t.i == 0x300) = true := by decide

/-- V122: sixteen registers from the font -/
theorem test_ldVxMem_font :
    ok (step ((start 0xFF65).setI 0x0050))
      (fun t => t.v.toList == [0xF0, 0x90, 0x90, 0x90, 0xF0, 0x20, 0x60, 0x20, 0x20, 0x70, 0xF0, 0x10, 0xF0, 0x80, 0xF0, 0xF0]) =
      true := by decide

/-- V153: the flag is left alone -/
theorem test_cls :
    ok (step (((start 0x00E0).setDisp (togglePixel blankGrid 5 7)).setReg 0xF 1)) (fun t => t.disp == blankGrid && t.reg 0xF == 1) =
      true := by decide

/-- V141 (bit 0 is column 7) with the pixel set before, so that it is erased: V[F] = 1 (R222) -/
theorem test_drw_collision :
    ok (step (((poke (start 0xD011) 0x300 0x01).setI 0x300).setDisp (togglePixel blankGrid 7 0)))
      (fun t => t.disp == blankGrid && t.reg 0xF == 1) = true := by decide

/-- V146: both coordinates 255 wrap; pixels (63,31) and (0,31) -/
theorem test_drw_wraps :
    ok (step ((((poke (start 0xD011) 0x300 0xC0).setI 0x300).setReg 0 0xFF).setReg 1 0xFF))
      (fun t => t.disp == togglePixel (togglePixel blankGrid 63 31) 0 31 && t.reg 0xF == 0) = true := by decide

/-- V167 and V168 -/
theorem test_skp :
    ok (exec (.skp 0) ({ (start 0xE09E).advance 0xE09E with env := { State.reset.env with keys := 0x0080 } }.setReg 0 7))
      (fun t => t.pc == 0x204) = true ∧
    ok (exec (.skp 0) (((start 0xE09E).advance 0xE09E).setReg 0 7)) (fun t => t.pc == 0x202) = true := by decide

/-- V171 and V172: no key has a number of 16 or more, and there is no mask -/
theorem test_keys_out_of_range :
    ok (exec (.skp 0) ({ (start 0xE09E).advance 0xE09E with env := { State.reset.env with keys := 0xFFFF } }.setReg 0 0x10))
      (fun t => t.pc == 0x202) = true ∧
    ok (exec (.sknp 0) ({ (start 0xE0A1).advance 0xE0A1 with env := { State.reset.env with keys := 0xFFFF } }.setReg 0 0x17))
      (fun t => t.pc == 0x204) = true := by decide

/-- V169 and V170 -/
theorem test_sknp :
    ok (exec (.sknp 0) ({ (start 0xE0A1).advance 0xE0A1 with env := { State.reset.env with keys := 0x0080 } }.setReg 0 7))
      (fun t => t.pc == 0x202) = true ∧
    ok (exec (.sknp 0) (((start 0xE0A1).advance 0xE0A1).setReg 0 7)) (fun t => t.pc == 0x204) = true := by decide

/-- V160 -/
theorem test_ldVxDt : ok (step ((start 0xF007).setDt 0x2A)) (fun t => t.reg 0 == 0x2A && t.dt == 0x2A) = true := by decide

/-- V161 -/
theorem test_ldDtVx : ok (step ((start 0xF015).setReg 0 0x3C)) (fun t => t.dt == 0x3C && t.st == 0) = true := by decide

/-- V162 and V163 -/
theorem test_ldStVx :
    ok (step ((start 0xF018).setReg 0 0x02)) (fun t => t.st == 0x02 && t.soundOn) = true ∧
    ok (step ((start 0xF018).setSt 0x05)) (fun t => t.st == 0x00 && !t.soundOn) = true := by decide

/-- V173 -/
theorem test_ldVxK :
    ok (step (start 0xF30A)) (fun t => t.waiting && t.wreg == 3 && t.pc == 0x202 && t.v == State.reset.v) = true := by decide

/-! ## Fetch and faults -/

/-- V1 and V4: big-endian, at an odd `pc` too -/
theorem test_fetch :
    (start 0x1234).fetch = some 0x1234 ∧
    ok (step ((State.reset.setPc 0x201).withFetch 0x6A55)) (fun t => t.reg 0xA == 0x55 && t.pc == 0x203) = true := by decide

/-- V2: 4094 is the last address that fetches -/
theorem test_fetch_last :
    ok (step ((State.reset.setPc 0xFFE).withFetch 0x6007)) (fun t => t.reg 0 == 0x07 && t.pc == 0x1000) = true := by decide

/-- V3, S10 -/
theorem test_fetch_fault :
    ok (step (State.reset.setPc 0xFFF))
      (fun t => t.faultCode == 1 && t.fault.addr == 0xFFF && t.fault.pc0 == 0xFFF && t.pc == 0xFFF) = true := by decide

/-- S9 -/
theorem test_invalid_instruction :
    ok (step (start 0x5001)) (fun t => t.faultCode == 2 && t.fault.ir == 0x5001 && t.fault.pc0 == 0x200 && t.pc == 0x200) = true := by
  decide

/-- V26 -/
theorem test_stack_overflow :
    ok (step (deep (start 0x2ABC) 16))
      (fun t => t.faultCode == 3 && t.fault.ir == 0x2ABC && t.sp == 16 && t.stk[15] == 0x0ABC && t.pc == 0x200) = true := by decide

/-- V28 -/
theorem test_stack_underflow :
    ok (step (start 0x00EE)) (fun t => t.faultCode == 4 && t.fault.ir == 0x00EE && t.pc == 0x200 && t.sp == 0) = true := by decide

/-- V114: nothing lands -/
theorem test_bcd_out_of_bounds :
    ok (step (((start 0xF033).setReg 0 0xFF).setI 0x0FFE))
      (fun t => t.faultCode == 1 && t.fault.addr == 0x1000 && Memory.readList t.mem 0xFFE 2 == [0, 0] && t.pc == 0x200) = true := by
  decide

/-- V118 -/
theorem test_store_out_of_bounds :
    ok (step ((start 0xF055).setI 0x1003)) (fun t => t.faultCode == 1 && t.fault.addr == 0x1003) = true := by decide

/-- V123 -/
theorem test_load_out_of_bounds :
    ok (step (((start 0xF165).setReg 0 0x77).setI 0x0FFF))
      (fun t => t.faultCode == 1 && t.fault.addr == 0x1000 && t.reg 0 == 0x77) = true := by decide

/-- V150 and V148: Dxy0 reads nothing, whatever `I` holds -/
theorem test_draw_bounds :
    ok (step (((start 0xD01F).setI 0x0FF2).setReg 0xF 5)) (fun t => t.faultCode == 1 && t.fault.addr == 0x1000 && t.reg 0xF == 5) = true ∧
    ok (step (((start 0xD010).setI 0x1000).setReg 0xF 1)) (fun t => t.faultCode == 0 && t.reg 0xF == 0) = true := by decide

/-- V14: a halted core's instruction tick stops the model with the record -/
theorem test_halted_tick :
    stops (step (haltedBy .stackUnderflow 0x00EE 0 State.reset)) (.stackUnderflow 0x200 0x00EE) = true := by decide

/-! ## Events -/

/-- V164 and V165 -/
theorem test_timer_tick :
    ok (step (send ((State.reset.setDt 0x05).setSt 0x01) .timerTick)) (fun t => t.dt == 0x04 && t.st == 0x00) = true ∧
    ok (step (send State.reset .timerTick)) (fun t => t.dt == 0x00 && t.st == 0x00) = true := by decide

/-- V175: the timers run through a wait; V14: they stop in a halted core -/
theorem test_timer_tick_waiting_and_halted :
    ok (step (send ((State.reset.setDt 0x02).enterWait 3) .timerTick)) (fun t => t.dt == 0x01 && t.wait) = true ∧
    ok (step (send (haltedBy .stackUnderflow 0x00EE 0 (State.reset.setDt 0x02)) .timerTick)) (fun t => t.dt == 0x02) = true := by decide

/-- V174 -/
theorem test_waiting_tick :
    ok (step (State.reset.enterWait 3)) (fun t => t.pc == 0x200 && t.wait && t.v == State.reset.v) = true := by decide

/-- V176 and V177 -/
theorem test_key_press :
    ok (step (send (State.reset.enterWait 3) (.keyPress 0xB))) (fun t => t.reg 3 == 0x0B && !t.wait) = true ∧
    ok (step (send State.reset (.keyPress 0xB))) (fun t => t.v == State.reset.v && !t.wait) = true := by decide

/-- V194: reset of a halted core -/
theorem test_reset_event :
    ok (step (send (haltedBy .stackUnderflow 0x00EE 0 ((poke State.reset 0x200 0x60).setDt 9)) .reset))
      (fun t => t.faultCode == 0 && t.pc == 0x200 && t.dt == 0 && t.mem == []) = true := by decide

/-- R304; R305: no move after the first instruction tick -/
theorem test_load_event :
    ok (step (send State.reset (.load [0x60, 0x07]))) (fun t => Memory.readList t.mem 0x200 3 == [0x60, 0x07, 0x00]) = true ∧
    refuses (step (send { State.reset with env := { State.reset.env with started := true } } (.load [0x60]))) .loadAfterStart = true := by
  decide

/-- R280: pixel (63, 0) is bit 63, pixel (0, 1) is bit 64, and no other bit is set -/
theorem test_display_output :
    (State.reset.setDisp (togglePixel (togglePixel blankGrid 63 0) 0 1)).displayOut = BitVec.ofNat 2048 (2 ^ 63 + 2 ^ 64) :=
  congrArg (BitVec.ofNat 2048) (by decide)

/-! ## Witnesses: states and operands that meet the hypotheses of the statements, clause by clause -/

theorem test_witness_DecodeOfEncode : (Instr.sys 0xFFF).wf = true ∧ (Instr.ldVxMem 0xF).wf = true := by decide

theorem test_witness_EncodeOfDecode :
    decode 0xFF65 = some (.ldVxMem 0xF) ∧ decode 0x00EE = some .ret ∧ decode 0x0000 = some (.sys 0) := by decide

/-- a row that matches alone, and 0nnn matching 00E0 as well -/
theorem test_witness_MatchAndMaskColumnsDecide :
    (decode 0x8126 = some (.shr 1 2) ∧ (0x8126#16 &&& (Instr.shr 1 2).mask) = (Instr.shr 1 2).pattern) ∧
    (decode 0x00E0 = some .cls ∧ (0x00E0#16 &&& (Instr.sys 0).mask) = (Instr.sys 0).pattern) := by decide

theorem test_witness_FetchIsBigEndian : (State.reset.setPc 4094).pc.toNat ≤ 4094 ∧ (State.reset.setPc 0).pc.toNat ≤ 4094 := by
  decide

theorem test_witness_StepRunsTheDecodedInstruction :
    (start 0x6A2C).Fetches 0x6A2C (.ldVxKk 0xA 0x2C) ∧ ((State.reset.setPc 4094).withFetch 0x00E0).Fetches 0x00E0 .cls := by decide

theorem test_witness_FetchAbove4094Raises :
    ((State.reset.setPc 4095).Ready ∧ 4094 < (State.reset.setPc 4095).pc.toNat) ∧
    ((State.reset.setPc 0xFFFF).Ready ∧ 4094 < (State.reset.setPc 0xFFFF).pc.toNat) := by decide

theorem test_witness_InvalidWordRaises :
    (start 0x5001).Ready ∧ (start 0x5001).pc.toNat ≤ 4094 ∧ decode (Memory.readWord (start 0x5001).mem (start 0x5001).pc.toNat) = none := by
  decide

theorem test_witness_WaitingTickChangesNothing :
    (State.reset.enterWait 0xF).env.inbox = [] ∧ (State.reset.enterWait 0xF).fault.kind = .none ∧
      (State.reset.enterWait 0xF).wait = true := by decide

theorem test_witness_HaltedTickStops :
    (haltedBy .outOfBounds 0 0x1000 State.reset).fault.kind = .outOfBounds ∧
    (haltedBy .invalidInstruction 0x5001 0 State.reset).fault.kind = .invalidInstruction ∧
    (haltedBy .stackOverflow 0x2ABC 0 State.reset).fault.kind = .stackOverflow ∧
    (haltedBy .stackUnderflow 0x00EE 0 State.reset).fault.kind = .stackUnderflow ∧
    (haltedBy .stackUnderflow 0x00EE 0 State.reset).env.inbox = [] := by decide

theorem test_witness_SysDoesNothing : (0x0E1 : Imm12) ≠ 0x0E0 ∧ (0x0E1 : Imm12) ≠ 0x0EE := by decide

theorem test_witness_CallPushesReturnAddress :
    State.reset.sp.val < 16 ∧ (deep State.reset 15).sp.val < 16 ∧ (deep State.reset 16).sp.val = 16 := by decide

theorem test_witness_ReturnPopsIntoPc :
    (deep State.reset 1).sp.val = (0 : Fin 16).val + 1 ∧ (deep State.reset 16).sp.val = (15 : Fin 16).val + 1 ∧
    State.reset.sp.val = 0 := by decide

theorem test_witness_CallThenReturnComesBack : State.reset.sp.val < 16 ∧ (deep State.reset 15).sp.val < 16 := by decide

theorem test_witness_SkipsOnRegisters : (0x1 : Nibble) ≠ 0 ∧ (0xF : Nibble) ≠ 0 := by decide

theorem test_witness_ArithmeticWritesResultAndFlag : (0x0 : Nibble) ≠ 0xF ∧ (0xE : Nibble) ≠ 0xF := by decide

theorem test_witness_BcdStoresThreeDigits : (State.reset.setI 4093).i.toNat + 2 ≤ 4095 := by decide

theorem test_witness_StoreRegistersToMemory :
    (State.reset.setI 4095).i.toNat + (0 : Nibble).toNat ≤ 4095 ∧ (State.reset.setI 4080).i.toNat + (0xF : Nibble).toNat ≤ 4095 ∧
    (0xF : Nibble).toNat ≤ (0xF : Nibble).toNat := by decide

theorem test_witness_LoadRegistersFromMemory :
    (State.reset.setI 4095).i.toNat + (0 : Nibble).toNat ≤ 4095 ∧ (State.reset.setI 4080).i.toNat + (0xF : Nibble).toNat ≤ 4095 := by
  decide

theorem test_witness_DataAccessOutOfBoundsRaises :
    4095 < (State.reset.setI 4094).i.toNat + 2 ∧ 4095 < (State.reset.setI 4081).i.toNat + (0xF : Nibble).toNat ∧
    4095 < (State.reset.setI 4096).i.toNat + (0 : Nibble).toNat ∧
    (0 < (0xF : Nibble).toNat ∧ 4095 < (State.reset.setI 4082).i.toNat + (0xF : Nibble).toNat - 1) ∧
    (0 < (1 : Nibble).toNat ∧ 4095 < (State.reset.setI 4096).i.toNat + (1 : Nibble).toNat - 1) := by decide

theorem test_witness_StoredWordIsFetched :
    (State.reset.setI 4094).i.toNat + (1 : Nibble).toNat ≤ 4095 ∧ 1 ≤ (1 : Nibble).toNat := by decide

/-- one pixel drawn: sprite byte 0x80 at 0x300 -/
def dot : State := (poke State.reset 0x300 0x80).setI 0x300

/-- the bounds; a pixel that is covered and one that is not -/
theorem test_witness_DrawXorsSprite :
    ((0 : Nibble).toNat = 0 ∧ 4095 < (State.reset.setI 0xFFFF).i.toNat) ∧
    (State.reset.setI 4095).i.toNat + (1 : Nibble).toNat - 1 ≤ 4095 ∧
    (State.reset.setI 4081).i.toNat + (0xF : Nibble).toNat - 1 ≤ 4095 ∧
    SpriteCovers dot 0 1 1 0 0 ∧ ¬ SpriteCovers dot 0 1 1 0 1 := by
  refine ⟨by decide, by decide, by decide, ⟨0, 0, by decide, by decide, by decide, by decide, by decide⟩, ?_⟩
  rintro ⟨row, _, hrow, _, _, hy, _⟩
  have : (dot.reg 1).toNat = 0 := by decide
  have : (1 : Nibble).toNat = 1 := by decide
  have : (1 : Fin 32).val = 1 := by decide
  omega

/-- a draw that erases a pixel, and one that erases none -/
theorem test_witness_DrawXorsSprite_collision :
    (∃ t : State, exec (.drw 0 1 1) (dot.setDisp (togglePixel blankGrid 0 0)) = .next t ∧
      pixel (dot.setDisp (togglePixel blankGrid 0 0)).disp 0 0 = true ∧ pixel t.disp 0 0 = false) ∧
    (∃ t : State, exec (.drw 0 1 1) dot = .next t ∧
      ∀ (px : Fin 64) (py : Fin 32), pixel dot.disp px py = true → pixel t.disp px py = true) :=
  ⟨⟨_, rfl, by decide, by decide⟩, ⟨_, rfl, fun px py h => absurd h (by simp [dot, poke, State.reset, pixel])⟩⟩

theorem test_witness_DrawTwiceErases :
    (0 : Nibble) ≠ 0xF ∧ (1 : Nibble) ≠ 0xF ∧ dot.i.toNat + (1 : Nibble).toNat ≤ 4096 ∧
    (∀ (px : Fin 64) (py : Fin 32), pixel dot.disp px py = false) ∧ SpriteCovers dot 0 1 1 0 0 :=
  ⟨by decide, by decide, by decide, fun px py => by simp [dot, poke, State.reset, pixel],
    0, 0, by decide, by decide, by decide, by decide, by decide⟩

theorem test_witness_DrawTwiceErases_bound : (State.reset.setI 4095).i.toNat + (1 : Nibble).toNat ≤ 4096 := by decide

/-- a wait, no wait, and a halted core -/
theorem test_witness_KeyPressEndsWait :
    (send (State.reset.enterWait 3) (.keyPress 0xF)).env.inbox = [.keyPress 0xF] ∧
    ((send (State.reset.enterWait 3) (.keyPress 0xF)).fault.kind = .none ∧
      (send (State.reset.enterWait 3) (.keyPress 0xF)).wait = true) ∧
    (send State.reset (.keyPress 0)).wait = false ∧
    (send (haltedBy .stackUnderflow 0x00EE 0 State.reset) (.keyPress 0)).fault.kind ≠ .none := by decide

theorem test_witness_TimerTickDecrements :
    (send State.reset .timerTick).env.inbox = [.timerTick] ∧ (send State.reset .timerTick).fault.kind = .none ∧
    (send (haltedBy .stackUnderflow 0x00EE 0 State.reset) .timerTick).fault.kind ≠ .none := by decide

theorem test_witness_DelayTimerRisesOnlyByItsLoad :
    ∃ t : State, step ((start 0xF015).setReg 0 1) = .next t ∧ ((start 0xF015).setReg 0 1).dt.toNat < t.dt.toNat :=
  ⟨_, rfl, by decide⟩

theorem test_witness_ResetFromAnyState :
    (send (haltedBy .stackUnderflow 0x00EE 0 (State.reset.enterWait 3)) .reset).env.inbox = [.reset] := by decide

/-- after the start; the longest program that fits; the shortest that does not -/
theorem test_witness_LoadCopiesProgram :
    (({ send State.reset (.load []) with env := { State.reset.env with inbox := [.load []], started := true } } : State).env.started = true) ∧
    ((send State.reset (.load (List.replicate 3584 1))).env.inbox = [.load (List.replicate 3584 1)] ∧
      (send State.reset (.load (List.replicate 3584 1))).env.started = false ∧ (List.replicate 3584 (1 : Byte)).length ≤ 3584) ∧
    ((send State.reset (.load (List.replicate 3585 1))).env.inbox = [.load (List.replicate 3585 1)] ∧
      (send State.reset (.load (List.replicate 3585 1))).env.started = false ∧ 3584 < (List.replicate 3585 (1 : Byte)).length) :=
  ⟨rfl, ⟨rfl, rfl, by rw [List.length_replicate]⟩, ⟨rfl, rfl, by rw [List.length_replicate]; decide⟩⟩

/-- V22: before an instruction tick, and the same during a wait -/
theorem test_witness_SelfJumpChangesNothing :
    ((start 0x1200).AtSelfJump 0x200 ∧ (start 0x1200).env.inbox = []) ∧
    (((start 0x1200).enterWait 3).AtSelfJump 0x200 ∧ ((start 0x1200).enterWait 3).env.inbox = []) :=
  ⟨⟨⟨by decide, by decide, by decide, 0x200, by decide, by decide⟩, by decide⟩,
    ⟨⟨by decide, by decide, by decide, 0x200, by decide, by decide⟩, by decide⟩⟩

/-- before a timer tick, and before a key press that a wait is for -/
theorem test_witness_SelfJumpChangesNothing_events :
    ((send ((start 0x1200).setDt 5) .timerTick).AtSelfJump 0x200 ∧ (send ((start 0x1200).setDt 5) .timerTick).env.inbox = [.timerTick]) ∧
    ((send ((start 0x1200).enterWait 3) (.keyPress 7)).AtSelfJump 0x200 ∧
      (send ((start 0x1200).enterWait 3) (.keyPress 7)).env.inbox = [.keyPress 7]) :=
  ⟨⟨⟨by decide, by decide, by decide, 0x200, by decide, by decide⟩, by decide⟩,
    ⟨⟨by decide, by decide, by decide, 0x200, by decide, by decide⟩, by decide⟩⟩

/-- a faulted state is never an end, and no other jump is one (D21) -/
theorem test_self_jump_excludes :
    ¬ (haltedBy .stackUnderflow 0x00EE 0 (start 0x1200)).AtSelfJump 0x200 ∧ ¬ (start 0x1200).AtSelfJump 0x202 :=
  ⟨fun h => absurd h.1 (by decide), fun h => absurd h.2.1 (by decide)⟩

theorem test_witness_FaultingInstructionChangesNothing :
    ∃ t : State, State.reset.fault.kind = .none ∧ exec .ret State.reset = .next t ∧ t.fault.kind ≠ .none :=
  ⟨_, rfl, rfl, by decide⟩

/-- each fault, and an instruction that raises none -/
theorem test_witness_FaultsAreTheListedOnes :
    (∃ t : State, exec (.call 0x200) (deep State.reset 16) = .next t ∧ t.fault.kind = .stackOverflow) ∧
    (∃ t : State, exec .ret State.reset = .next t ∧ t.fault.kind = .stackUnderflow) ∧
    (∃ t : State, exec (.ldVxMem 0) (State.reset.setI 4096) = .next t ∧ t.fault.kind = .outOfBounds) ∧
    (∃ t : State, exec (.call 0x200) (deep State.reset 15) = .next t ∧ t.fault.kind = .none) :=
  ⟨⟨_, rfl, by decide⟩, ⟨_, rfl, by decide⟩, ⟨_, rfl, by decide⟩, ⟨_, rfl, by decide⟩⟩

theorem test_witness_FlagRegisterWriters :
    ∃ t : State, exec (.sub 0 1) State.reset = .next t ∧ t.reg 0xF ≠ State.reset.reg 0xF := ⟨_, rfl, by decide⟩

theorem test_witness_MemoryWriters :
    ∃ t : State, exec (.ldMemVx 0xF) ((State.reset.setReg 0xF 1).setI 4080) = .next t ∧
      Memory.read t.mem 4095 ≠ Memory.read ((State.reset.setReg 0xF 1).setI 4080).mem 4095 := ⟨_, rfl, by decide⟩

theorem test_witness_StackWriters :
    ∃ t : State, exec (.call 0x300) State.reset = .next t ∧ t.sp ≠ State.reset.sp ∧ t.stk[0] ≠ State.reset.stk[0] :=
  ⟨_, rfl, by decide, by decide⟩

theorem test_witness_ProgramCounterWriters :
    ∃ t : State, State.reset.fault.kind = .none ∧ exec (.seVxVy 0 1) State.reset = .next t ∧ t.pc ≠ State.reset.pc :=
  ⟨_, rfl, rfl, by decide⟩

theorem test_witness_IndexDisplayTimerAndWaitWriters :
    (∃ t : State, exec (.ldINnn 1) State.reset = .next t ∧ t.i ≠ State.reset.i) ∧
    (∃ t : State, exec (.drw 0 1 1) dot = .next t ∧ t.disp ≠ dot.disp) ∧
    (∃ t : State, exec (.ldDtVx 0) (State.reset.setReg 0 1) = .next t ∧ t.dt ≠ (State.reset.setReg 0 1).dt) ∧
    (∃ t : State, exec (.ldStVx 0) (State.reset.setReg 0 1) = .next t ∧ t.st ≠ (State.reset.setReg 0 1).st) ∧
    (∃ t : State, exec (.ldVxK 3) State.reset = .next t ∧ t.wait ≠ State.reset.wait ∧ t.wreg ≠ State.reset.wreg) :=
  ⟨⟨_, rfl, by decide⟩, ⟨_, rfl, by decide⟩, ⟨_, rfl, by decide⟩, ⟨_, rfl, by decide⟩, ⟨_, rfl, by decide, by decide⟩⟩

theorem test_witness_InputsReachOnlyTheirInstructions :
    (∃ t : State, exec (.jp 0x300) State.reset = .next t) ∧
    (∀ (x : Nibble) (kk : Byte), Instr.jp 0x300 ≠ .rnd x kk) ∧ (∀ x : Nibble, Instr.jp 0x300 ≠ .skp x ∧ Instr.jp 0x300 ≠ .sknp x) :=
  ⟨⟨_, rfl⟩, by simp, by simp⟩

/-- memory with cells in it, before a store -/
theorem test_witness_StepKeepsMemoryCanonical : (start 0xF055).MemoryCanonical ∧ ∃ t : State, step (start 0xF055) = .next t :=
  ⟨by decide, _, rfl⟩

theorem test_witness_StepKeepsAddressesBounded :
    (start 0xBFFF).AddressesBounded ∧ (∃ t : State, step (start 0xBFFF) = .next t) ∧
    (deep (State.reset.setPc 0x10FE) 16).AddressesBounded := ⟨by decide, ⟨_, rfl⟩, by decide⟩

/-- a core halted by a return on an empty stack, about to get a timer tick -/
def halt : State :=
  send { haltedBy .stackUnderflow 0x00EE 0 (start 0x00EE) with env := { State.reset.env with started := true } } .timerTick

/-- a halted core, and a core about to fault -/
theorem test_witness_StepKeepsFaultRecordTrue :
    (halt.FaultRecordTrue ∧ halt.halted = true ∧ ∃ t : State, step halt = .next t) ∧
    (start 0x00EE).FaultRecordTrue ∧ ∃ t : State, step (start 0x00EE) = .next t :=
  ⟨⟨fun _ => ⟨rfl, rfl, rfl, by decide, by decide, rfl, by decide⟩, rfl, _, rfl⟩, fun h => absurd h (by decide), _, rfl⟩

end Sys2Proof.Tests
end

/-! Proofs for control transfer and skips (41_control_flow.md R140 to R149). -/

namespace Sys2Proof

/-- A word of major opcode 0 is `SYS` unless its low 12 bits are those of `CLS` or `RET` (30_encoding.md R93). -/
theorem decode_zero_nnn (nnn : Imm12) (hcls : nnn ≠ 0x0E0) (hret : nnn ≠ 0x0EE) :
    decode (0x0#4 ++ nnn) = some (.sys nnn) := by
  have ne_of_low (w : Word) (h : nnn ≠ fieldNnn w) : 0x0#4 ++ nnn ≠ w := by
    rintro rfl
    exact h (fieldNnn_nnn _ _).symm
  have hsys : decodeSys (0x0#4 ++ nnn) = .sys nnn := by
    rw [decodeSys, if_neg (ne_of_low 0x00E0#16 hcls),
      if_neg (ne_of_low 0x00EE#16 hret), fieldNnn_nnn]
  simp [decode, hsys]

/-- Major opcode 5 is `SE Vx, Vy` with low nibble 0 and invalid with any other (30_encoding.md R94, R96). -/
theorem decode_five_xyn (x y n : Nibble) :
    decode (0x5#4 ++ x ++ y ++ n) = if n = 0 then some (.seVxVy x y) else none := by
  simp [decode]

/-- Major opcode 9 is `SNE Vx, Vy` with low nibble 0 and invalid with any other (30_encoding.md R94, R96). -/
theorem decode_nine_xyn (x y n : Nibble) :
    decode (0x9#4 ++ x ++ y ++ n) = if n = 0 then some (.sneVxVy x y) else none := by
  simp [decode]

end Sys2Proof

namespace Sys2Proof.Machine

/-- A write of `pc` leaves every other part of the state alone. -/
theorem State.setPc_unchanged (s : State) (w : Word) : UnchangedExcept [.pc] s (s.setPc w) := by
  intro p hp
  cases p with
  | pc => exact absurd (List.mem_singleton.mpr rfl) hp
  | _ => simp [Part.Same]

/-- A skip adds 2 to `pc` exactly when its condition holds, and leaves every other part of the state alone. -/
theorem State.skipIf_spec (s : State) (c : Bool) :
    (s.skipIf c).pc = (if c then s.pc + 2 else s.pc) ∧ UnchangedExcept [.pc] s (s.skipIf c) := by
  rw [s.skipIf_eq]
  exact ⟨s.setPc_pc _, s.setPc_unchanged _⟩

/-- 0nnn runs to the state it was given. -/
theorem exec_sys (nnn : Imm12) (s : State) : exec (.sys nnn) s = .next s := rfl

/-- 5xy0 is a skip on equal registers. -/
theorem exec_seVxVy (x y : Nibble) (s : State) :
    exec (.seVxVy x y) s = .next (s.skipIf (s.reg x == s.reg y)) := rfl

/-- 9xy0 is a skip on different registers. -/
theorem exec_sneVxVy (x y : Nibble) (s : State) :
    exec (.sneVxVy x y) s = .next (s.skipIf (s.reg x != s.reg y)) := rfl

/-- Settles O13: only 0x0E0 and 0x0EE are taken from `SYS` by the decoder, and its meaning is the identity. -/
theorem sysDoesNothing : Obligations.SysDoesNothing :=
  fun nnn s => ⟨decode_zero_nnn nnn, exec_sys nnn s⟩

/-- Settles O20: the low nibble decides the decoding, and both instructions are a skip on a comparison of two registers. -/
theorem skipsOnRegisters : Obligations.SkipsOnRegisters := by
  intro x y s
  refine ⟨decode_five_xyn x y 0, decode_nine_xyn x y 0, fun n hn => ⟨?_, ?_⟩,
    ⟨_, exec_seVxVy x y s, ?_⟩, ⟨_, exec_sneVxVy x y s, ?_⟩⟩
  · rw [decode_five_xyn, if_neg hn]
  · rw [decode_nine_xyn, if_neg hn]
  · simpa using s.skipIf_spec (s.reg x == s.reg y)
  · simpa using s.skipIf_spec (s.reg x != s.reg y)

end Sys2Proof.Machine

/-! Proofs for register loads and the operations that write no flag (42_load_alu.md R170 to R175). -/

namespace Sys2Proof

/-- Major opcode 6 is `LD Vx, kk` (30_encoding.md R94). -/
theorem decode_six_xkk (x : Nibble) (kk : Byte) : decode (0x6#4 ++ x ++ kk) = some (.ldVxKk x kk) := by
  simp [decode]

/-- Major opcode 7 is `ADD Vx, kk` (30_encoding.md R94). -/
theorem decode_seven_xkk (x : Nibble) (kk : Byte) : decode (0x7#4 ++ x ++ kk) = some (.addVxKk x kk) := by
  simp [decode]

/-- Major opcode 8 is left to the decoder of the low nibble (30_encoding.md R95). -/
theorem decode_eight_xyn (x y n : Nibble) : decode (0x8#4 ++ x ++ y ++ n) = decodeAlu x y n := by
  simp [decode]

end Sys2Proof

namespace Sys2Proof.Machine

/-- A register write leaves every part of the state but the registers alone. -/
theorem State.setReg_unchanged (s : State) (x : Nibble) (b : Byte) : UnchangedExcept [.regs] s (s.setReg x b) := by
  intro p hp
  cases p with
  | regs => exact absurd (List.mem_singleton.mpr rfl) hp
  | _ => simp [Part.Same]

/-- A register write leaves every other register alone. -/
theorem State.setReg_regsExcept (s : State) (x : Nibble) (b : Byte) : RegsExcept [x] s (s.setReg x b) := by
  intro r hr
  rw [s.setReg_reg, if_neg (List.ne_of_not_mem_cons hr)]

/-- A register write is seen in that register, and changes nothing else. -/
theorem State.setReg_spec (s : State) (x : Nibble) (b : Byte) :
    (s.setReg x b).reg x = b ∧ RegsExcept [x] s (s.setReg x b) ∧ UnchangedExcept [.regs] s (s.setReg x b) :=
  ⟨by simp, s.setReg_regsExcept x b, s.setReg_unchanged x b⟩

/-- An instruction that runs to a register write changes that register to the value written, and nothing else. -/
theorem exec_spec_of_setReg {i : Instr} {s : State} {x : Nibble} {b : Byte} (h : exec i s = .next (s.setReg x b)) :
    ∃ t : State, exec i s = .next t ∧ t.reg x = b ∧ RegsExcept [x] s t ∧ UnchangedExcept [.regs] s t :=
  ⟨_, h, s.setReg_spec x b⟩

/-- 6xkk writes the immediate. -/
theorem exec_ldVxKk (x : Nibble) (kk : Byte) (s : State) : exec (.ldVxKk x kk) s = .next (s.setReg x kk) := rfl

/-- 7xkk writes the sum of the register and the immediate. -/
theorem exec_addVxKk (x : Nibble) (kk : Byte) (s : State) :
    exec (.addVxKk x kk) s = .next (s.setReg x (s.reg x + kk)) := rfl

/-- 8xy0 writes a copy of the second register. -/
theorem exec_ldVxVy (x y : Nibble) (s : State) : exec (.ldVxVy x y) s = .next (s.setReg x (s.reg y)) := rfl

/-- 8xy1 writes the bitwise or. -/
theorem exec_orVxVy (x y : Nibble) (s : State) :
    exec (.orVxVy x y) s = .next (s.setReg x (s.reg x ||| s.reg y)) := rfl

/-- 8xy2 writes the bitwise and. -/
theorem exec_andVxVy (x y : Nibble) (s : State) :
    exec (.andVxVy x y) s = .next (s.setReg x (s.reg x &&& s.reg y)) := rfl

/-- 8xy3 writes the bitwise exclusive or. -/
theorem exec_xorVxVy (x y : Nibble) (s : State) :
    exec (.xorVxVy x y) s = .next (s.setReg x (s.reg x ^^^ s.reg y)) := rfl

/-- Settles O22: major opcode 6 decodes to the load, whose meaning is one register write. -/
theorem loadImmediate : Obligations.LoadImmediate :=
  fun x kk s => ⟨decode_six_xkk x kk, exec_spec_of_setReg (exec_ldVxKk x kk s)⟩

/-- Settles O23: one register write, and addition of bytes is addition modulo 256. -/
theorem addImmediateWraps : Obligations.AddImmediateWraps := by
  intro x kk s
  obtain ⟨t, hexec, hsum, hframe⟩ := exec_spec_of_setReg (exec_addVxKk x kk s)
  refine ⟨decode_seven_xkk x kk, t, hexec, ?_, hframe⟩
  rw [hsum, BitVec.toNat_add]

/-- Settles O24: the low nibbles 0 to 3 of major opcode 8 decode to four instructions, each of them one register write. -/
theorem copyAndLogic : Obligations.CopyAndLogic := by
  intro x y s
  simp only [decode_eight_xyn]
  exact ⟨rfl, rfl, rfl, rfl,
    exec_spec_of_setReg (exec_ldVxVy x y s), exec_spec_of_setReg (exec_orVxVy x y s),
    exec_spec_of_setReg (exec_andVxVy x y s), exec_spec_of_setReg (exec_xorVxVy x y s)⟩

end Sys2Proof.Machine

/-! Proofs for the loads of the index register (43_index_memory.md R200, R202). -/

namespace Sys2Proof

/-- Major opcode A is `LD I, nnn` (30_encoding.md R94). -/
theorem decode_A_nnn (nnn : Imm12) : decode (0xA#4 ++ nnn) = some (.ldINnn nnn) := by
  simp [decode]

/-- Major opcode F is left to the decoder of the low byte (30_encoding.md R95). -/
theorem decode_F_xkk (x : Nibble) (kk : Byte) : decode (0xF#4 ++ x ++ kk) = decodeMisc x kk := by
  simp [decode]

end Sys2Proof

namespace Sys2Proof.Machine

/-- A zero-extended immediate has the value of the immediate. -/
@[simp] theorem addrOfImm_toNat (nnn : Imm12) : (addrOfImm nnn).toNat = nnn.toNat :=
  BitVec.toNat_setWidth_of_le (by decide)

/-- A zero-extended byte has the value of the byte. -/
@[simp] theorem zext16_toNat (b : Byte) : (zext16 b).toNat = b.toNat :=
  BitVec.toNat_setWidth_of_le (by decide)

/-- The glyph address of any byte is the exact sum: at most 0x050 + 5 * 255, it never wraps (43_index_memory.md R202). -/
@[simp] theorem glyphAddr_toNat (d : Byte) : (glyphAddr d).toNat = 0x050 + 5 * d.toNat := by
  have hd : d.toNat < 256 := d.isLt
  have hmod : (glyphAddr d).toNat = (0x050 + 5 * d.toNat % 65536) % 65536 := by
    simp [glyphAddr, BitVec.toNat_add, BitVec.toNat_mul, Config.fontBase]
  omega

/-- A write of `I` leaves every other part of the state alone. -/
theorem State.setI_unchanged (s : State) (w : Word) : UnchangedExcept [.index] s (s.setI w) := by
  intro p hp
  cases p with
  | index => exact absurd (List.mem_singleton.mpr rfl) hp
  | _ => simp [Part.Same]

/-- An instruction that runs to a write of `I` changes `I` to the value written, and nothing else. -/
theorem exec_spec_of_setI {i : Instr} {s : State} {w : Word} (h : exec i s = .next (s.setI w)) :
    ∃ t : State, exec i s = .next t ∧ t.i.toNat = w.toNat ∧ UnchangedExcept [.index] s t :=
  ⟨_, h, congrArg BitVec.toNat (s.setI_i w), s.setI_unchanged w⟩

/-- Annn writes the zero-extended immediate to `I`. -/
theorem exec_ldINnn (nnn : Imm12) (s : State) : exec (.ldINnn nnn) s = .next (s.setI (addrOfImm nnn)) := rfl

/-- Fx29 writes the glyph address of the register to `I`. -/
theorem exec_ldFVx (x : Nibble) (s : State) : exec (.ldFVx x) s = .next (s.setI (glyphAddr (s.reg x))) := rfl

/-- Settles O29: both instructions are one write of `I`, and neither address wraps. -/
theorem indexLoads : Obligations.IndexLoads := by
  intro nnn x s
  refine ⟨decode_A_nnn nnn, decode_F_xkk x 0x29, ?_, ?_⟩
  · simpa using exec_spec_of_setI (exec_ldINnn nnn s)
  · simpa using exec_spec_of_setI (exec_ldFVx x s)

end Sys2Proof.Machine

/-! Proof for the clear of the display (44_display.md R220). -/

namespace Sys2Proof

/-- 00E0 is matched before 0nnn, and is `CLS` (30_encoding.md R93). -/
theorem decode_00E0 : decode 0x00E0 = some .cls := by decide

end Sys2Proof

namespace Sys2Proof.Machine

/-- A write of the display leaves every other part of the state alone. -/
theorem State.setDisp_unchanged (s : State) (d : Grid) : UnchangedExcept [.disp] s (s.setDisp d) := by
  intro p hp
  cases p with
  | disp => exact absurd (List.mem_singleton.mpr rfl) hp
  | _ => simp [Part.Same]

/-- 00E0 writes the blank display. -/
theorem exec_cls (s : State) : exec .cls s = .next (s.setDisp blankGrid) := rfl

/-- Settles O36: the instruction is one write of the display, whose new value has every pixel 0. -/
theorem clearZeroesDisplay : Obligations.ClearZeroesDisplay := by
  intro s
  refine ⟨decode_00E0, s.setDisp blankGrid, exec_cls s, fun px py => ?_, s.setDisp_unchanged blankGrid⟩
  rw [s.setDisp_disp, pixel_blankGrid]

end Sys2Proof.Machine

/-! Proofs for the encoding (30_encoding.md R91 to R98): what each major opcode decodes to, the word put together again from
its fields, and the words that a row of the opcode map matches. -/

namespace Sys2Proof

/-! ### The major opcodes the sections above do not decode -/

/-- 00EE is matched before 0nnn, and is `RET` (30_encoding.md R93). -/
theorem decode_00EE : decode 0x00EE = some .ret := by decide

/-- Major opcode 1 is `JP nnn` (30_encoding.md R94). -/
theorem decode_one_nnn (nnn : Imm12) : decode (0x1#4 ++ nnn) = some (.jp nnn) := by
  simp [decode]

/-- Major opcode 2 is `CALL nnn` (30_encoding.md R94). -/
theorem decode_two_nnn (nnn : Imm12) : decode (0x2#4 ++ nnn) = some (.call nnn) := by
  simp [decode]

/-- Major opcode B is `JP V0, nnn` (30_encoding.md R94). -/
theorem decode_B_nnn (nnn : Imm12) : decode (0xB#4 ++ nnn) = some (.jpV0 nnn) := by
  simp [decode]

/-- Major opcode 3 is `SE Vx, kk` (30_encoding.md R94). -/
theorem decode_three_xkk (x : Nibble) (kk : Byte) : decode (0x3#4 ++ x ++ kk) = some (.seVxKk x kk) := by
  simp [decode]

/-- Major opcode 4 is `SNE Vx, kk` (30_encoding.md R94). -/
theorem decode_four_xkk (x : Nibble) (kk : Byte) : decode (0x4#4 ++ x ++ kk) = some (.sneVxKk x kk) := by
  simp [decode]

/-- Major opcode C is `RND Vx, kk` (30_encoding.md R94). -/
theorem decode_C_xkk (x : Nibble) (kk : Byte) : decode (0xC#4 ++ x ++ kk) = some (.rnd x kk) := by
  simp [decode]

/-- Major opcode D is `DRW Vx, Vy, n` (30_encoding.md R94). -/
theorem decode_D_xyn (x y n : Nibble) : decode (0xD#4 ++ x ++ y ++ n) = some (.drw x y n) := by
  simp [decode]

/-- Major opcode E is left to the decoder of the low byte (30_encoding.md R95). -/
theorem decode_E_xkk (x : Nibble) (kk : Byte) : decode (0xE#4 ++ x ++ kk) = decodeKey x kk := by
  simp [decode]

/-! ### From the instruction to the word and back -/

/-- The encoder's word decodes to the instruction, row by row. -/
theorem decode_encode : ∀ i : Instr, i.wf = true → decode (encode i) = some i
  | .cls, _ => decode_00E0
  | .ret, _ => decode_00EE
  | .sys nnn, hwf => by
    obtain ⟨hcls, hret⟩ : nnn ≠ 0x0E0 ∧ nnn ≠ 0x0EE := by simpa [Instr.wf] using hwf
    exact decode_zero_nnn nnn hcls hret
  | .jp nnn, _ => decode_one_nnn nnn
  | .call nnn, _ => decode_two_nnn nnn
  | .seVxKk x kk, _ => decode_three_xkk x kk
  | .sneVxKk x kk, _ => decode_four_xkk x kk
  | .seVxVy x y, _ => decode_five_xyn x y 0x0
  | .ldVxKk x kk, _ => decode_six_xkk x kk
  | .addVxKk x kk, _ => decode_seven_xkk x kk
  | .ldVxVy x y, _ => decode_eight_xyn x y 0x0
  | .orVxVy x y, _ => decode_eight_xyn x y 0x1
  | .andVxVy x y, _ => decode_eight_xyn x y 0x2
  | .xorVxVy x y, _ => decode_eight_xyn x y 0x3
  | .addVxVy x y, _ => decode_eight_xyn x y 0x4
  | .sub x y, _ => decode_eight_xyn x y 0x5
  | .shr x y, _ => decode_eight_xyn x y 0x6
  | .subn x y, _ => decode_eight_xyn x y 0x7
  | .shl x y, _ => decode_eight_xyn x y 0xE
  | .sneVxVy x y, _ => decode_nine_xyn x y 0x0
  | .ldINnn nnn, _ => decode_A_nnn nnn
  | .jpV0 nnn, _ => decode_B_nnn nnn
  | .rnd x kk, _ => decode_C_xkk x kk
  | .drw x y n, _ => decode_D_xyn x y n
  | .skp x, _ => decode_E_xkk x 0x9E
  | .sknp x, _ => decode_E_xkk x 0xA1
  | .ldVxDt x, _ => decode_F_xkk x 0x07
  | .ldVxK x, _ => decode_F_xkk x 0x0A
  | .ldDtVx x, _ => decode_F_xkk x 0x15
  | .ldStVx x, _ => decode_F_xkk x 0x18
  | .addIVx x, _ => decode_F_xkk x 0x1E
  | .ldFVx x, _ => decode_F_xkk x 0x29
  | .ldBVx x, _ => decode_F_xkk x 0x33
  | .ldMemVx x, _ => decode_F_xkk x 0x55
  | .ldVxMem x, _ => decode_F_xkk x 0x65

/-- Settles O2: one decoding lemma per major opcode. -/
theorem decodeOfEncode : Obligations.DecodeOfEncode := decode_encode

/-- A word is its major opcode and its low 12 bits. -/
theorem fieldOp_append_fieldNnn (w : Word) : fieldOp w ++ fieldNnn w = w := by
  unfold fieldOp fieldNnn
  rw [BitVec.extractLsb'_append_extractLsb'_eq_extractLsb' (by rfl)]
  exact BitVec.extractLsb'_eq_self

/-- A word is its major opcode, its `x` field and its low byte. -/
theorem fieldOp_append_fieldX_append_fieldKk (w : Word) : fieldOp w ++ fieldX w ++ fieldKk w = w := by
  have hnnn : fieldX w ++ fieldKk w = fieldNnn w := BitVec.extractLsb'_append_extractLsb'_eq_extractLsb' (by rfl)
  rw [BitVec.append_assoc, hnnn]
  exact fieldOp_append_fieldNnn w

/-- A word is its four nibbles. -/
theorem fieldOp_append_fieldX_append_fieldY_append_fieldN (w : Word) :
    fieldOp w ++ fieldX w ++ fieldY w ++ fieldN w = w := by
  have hkk : fieldY w ++ fieldN w = fieldKk w := BitVec.extractLsb'_append_extractLsb'_eq_extractLsb' (by rfl)
  rw [BitVec.append_assoc, hkk]
  exact fieldOp_append_fieldX_append_fieldKk w

/-- The sixteen values of a nibble. -/
theorem nibble_cases : ∀ n : Nibble,
    n = 0x0 ∨ n = 0x1 ∨ n = 0x2 ∨ n = 0x3 ∨ n = 0x4 ∨ n = 0x5 ∨ n = 0x6 ∨ n = 0x7 ∨
    n = 0x8 ∨ n = 0x9 ∨ n = 0xA ∨ n = 0xB ∨ n = 0xC ∨ n = 0xD ∨ n = 0xE ∨ n = 0xF := by decide

/-- Every word, by its major opcode, in the shape of that opcode's rows (30_encoding.md R91, R94). -/
inductive WordCase : Word → Prop
  | zero (nnn : Imm12) : WordCase (0x0#4 ++ nnn)
  | one (nnn : Imm12) : WordCase (0x1#4 ++ nnn)
  | two (nnn : Imm12) : WordCase (0x2#4 ++ nnn)
  | three (x : Nibble) (kk : Byte) : WordCase (0x3#4 ++ x ++ kk)
  | four (x : Nibble) (kk : Byte) : WordCase (0x4#4 ++ x ++ kk)
  | five (x y n : Nibble) : WordCase (0x5#4 ++ x ++ y ++ n)
  | six (x : Nibble) (kk : Byte) : WordCase (0x6#4 ++ x ++ kk)
  | seven (x : Nibble) (kk : Byte) : WordCase (0x7#4 ++ x ++ kk)
  | eight (x y n : Nibble) : WordCase (0x8#4 ++ x ++ y ++ n)
  | nine (x y n : Nibble) : WordCase (0x9#4 ++ x ++ y ++ n)
  | A (nnn : Imm12) : WordCase (0xA#4 ++ nnn)
  | B (nnn : Imm12) : WordCase (0xB#4 ++ nnn)
  | C (x : Nibble) (kk : Byte) : WordCase (0xC#4 ++ x ++ kk)
  | D (x y n : Nibble) : WordCase (0xD#4 ++ x ++ y ++ n)
  | E (x : Nibble) (kk : Byte) : WordCase (0xE#4 ++ x ++ kk)
  | F (x : Nibble) (kk : Byte) : WordCase (0xF#4 ++ x ++ kk)

/-- Every word has the shape of its major opcode. -/
theorem wordCase (w : Word) : WordCase w := by
  have hnnn := fieldOp_append_fieldNnn w
  have hxkk := fieldOp_append_fieldX_append_fieldKk w
  have hxyn := fieldOp_append_fieldX_append_fieldY_append_fieldN w
  rcases nibble_cases (fieldOp w) with h | h | h | h | h | h | h | h | h | h | h | h | h | h | h | h <;>
    rw [h] at hnnn hxkk hxyn
  · exact hnnn ▸ .zero _
  · exact hnnn ▸ .one _
  · exact hnnn ▸ .two _
  · exact hxkk ▸ .three _ _
  · exact hxkk ▸ .four _ _
  · exact hxyn ▸ .five _ _ _
  · exact hxkk ▸ .six _ _
  · exact hxkk ▸ .seven _ _
  · exact hxyn ▸ .eight _ _ _
  · exact hxyn ▸ .nine _ _ _
  · exact hnnn ▸ .A _
  · exact hnnn ▸ .B _
  · exact hxkk ▸ .C _ _
  · exact hxyn ▸ .D _ _ _
  · exact hxkk ▸ .E _ _
  · exact hxkk ▸ .F _ _

/-- An instruction of `decodeAlu` is well-formed, and its word is that of major opcode 8 with its fields. -/
theorem encode_of_decodeAlu {x y n : Nibble} {i : Instr} (h : decodeAlu x y n = some i) :
    i.wf = true ∧ encode i = 0x8#4 ++ x ++ y ++ n := by
  unfold decodeAlu at h
  split_ifs at h with hn hn hn hn hn hn hn hn hn <;> cases h <;> exact ⟨rfl, by rw [hn]; rfl⟩

/-- An instruction of `decodeKey` is well-formed, and its word is that of major opcode E with its fields. -/
theorem encode_of_decodeKey {x : Nibble} {kk : Byte} {i : Instr} (h : decodeKey x kk = some i) :
    i.wf = true ∧ encode i = 0xE#4 ++ x ++ kk := by
  unfold decodeKey at h
  split_ifs at h with hkk hkk <;> cases h <;> exact ⟨rfl, by rw [hkk]; rfl⟩

/-- An instruction of `decodeMisc` is well-formed, and its word is that of major opcode F with its fields. -/
theorem encode_of_decodeMisc {x : Nibble} {kk : Byte} {i : Instr} (h : decodeMisc x kk = some i) :
    i.wf = true ∧ encode i = 0xF#4 ++ x ++ kk := by
  unfold decodeMisc at h
  split_ifs at h with hkk hkk hkk hkk hkk hkk hkk hkk hkk <;> cases h <;> exact ⟨rfl, by rw [hkk]; rfl⟩

/-- An instruction of a word of major opcode 0 is well-formed, and the word is its word. -/
theorem encode_of_decode_zero {nnn : Imm12} {i : Instr} (h : decode (0x0#4 ++ nnn) = some i) :
    i.wf = true ∧ encode i = 0x0#4 ++ nnn := by
  by_cases hcls : nnn = 0x0E0
  · subst hcls
    cases decode_00E0.symm.trans h
    exact ⟨rfl, rfl⟩
  · by_cases hret : nnn = 0x0EE
    · subst hret
      cases decode_00EE.symm.trans h
      exact ⟨rfl, rfl⟩
    · cases (decode_zero_nnn nnn hcls hret).symm.trans h
      exact ⟨by simpa [Instr.wf] using And.intro hcls hret, rfl⟩

/-- A word that decodes is the word of a well-formed instruction. -/
theorem encode_of_decode {w : Word} {i : Instr} (h : decode w = some i) : i.wf = true ∧ encode i = w := by
  cases wordCase w with
  | zero => exact encode_of_decode_zero h
  | one => cases (decode_one_nnn _).symm.trans h; exact ⟨rfl, rfl⟩
  | two => cases (decode_two_nnn _).symm.trans h; exact ⟨rfl, rfl⟩
  | three => cases (decode_three_xkk _ _).symm.trans h; exact ⟨rfl, rfl⟩
  | four => cases (decode_four_xkk _ _).symm.trans h; exact ⟨rfl, rfl⟩
  | five =>
    rw [decode_five_xyn] at h
    split_ifs at h with hn
    cases h
    exact ⟨rfl, by rw [hn]; rfl⟩
  | six => cases (decode_six_xkk _ _).symm.trans h; exact ⟨rfl, rfl⟩
  | seven => cases (decode_seven_xkk _ _).symm.trans h; exact ⟨rfl, rfl⟩
  | eight => exact encode_of_decodeAlu ((decode_eight_xyn _ _ _).symm.trans h)
  | nine =>
    rw [decode_nine_xyn] at h
    split_ifs at h with hn
    cases h
    exact ⟨rfl, by rw [hn]; rfl⟩
  | A => cases (decode_A_nnn _).symm.trans h; exact ⟨rfl, rfl⟩
  | B => cases (decode_B_nnn _).symm.trans h; exact ⟨rfl, rfl⟩
  | C => cases (decode_C_xkk _ _).symm.trans h; exact ⟨rfl, rfl⟩
  | D => cases (decode_D_xyn _ _ _).symm.trans h; exact ⟨rfl, rfl⟩
  | E => exact encode_of_decodeKey ((decode_E_xkk _ _).symm.trans h)
  | F => exact encode_of_decodeMisc ((decode_F_xkk _ _).symm.trans h)

/-- Settles O3: by the shapes of a word. -/
theorem encodeOfDecode : Obligations.EncodeOfDecode := fun _ _ => encode_of_decode

/-! ### The invalid words (30_encoding.md R96) -/

/-- `decodeAlu` rejects the listed low nibbles. -/
theorem decodeAlu_eq_none (x y n : Nibble) :
    decodeAlu x y n = none ↔ n ∈ [0x8#4, 0x9#4, 0xA#4, 0xB#4, 0xC#4, 0xD#4, 0xF#4] := by
  have hlist : ∀ n : Nibble, n ∈ [0x8#4, 0x9#4, 0xA#4, 0xB#4, 0xC#4, 0xD#4, 0xF#4] ↔
      n ∉ [0x0#4, 0x1#4, 0x2#4, 0x3#4, 0x4#4, 0x5#4, 0x6#4, 0x7#4, 0xE#4] := by decide
  rw [hlist]
  simp [decodeAlu, ite_eq_iff]

/-- `decodeKey` rejects all low bytes but its two. -/
theorem decodeKey_eq_none (x : Nibble) (kk : Byte) : decodeKey x kk = none ↔ kk ∉ [0x9E#8, 0xA1#8] := by
  simp [decodeKey, ite_eq_iff]

/-- `decodeMisc` rejects all low bytes but its nine. -/
theorem decodeMisc_eq_none (x : Nibble) (kk : Byte) : decodeMisc x kk = none ↔
    kk ∉ [0x07#8, 0x0A#8, 0x15#8, 0x18#8, 0x1E#8, 0x29#8, 0x33#8, 0x55#8, 0x65#8] := by
  simp [decodeMisc, ite_eq_iff]

/-- A word of major opcode 0 is never invalid. -/
theorem decode_zero_ne_none (nnn : Imm12) : decode (0x0#4 ++ nnn) ≠ none := by
  simp [decode]

/-- Settles O5: by the shapes of a word. -/
theorem invalidWordsAreTheListedOnes : Obligations.InvalidWordsAreTheListedOnes := by
  intro w
  cases wordCase w with
  | zero nnn => simp [decode_zero_ne_none]
  | one => simp [decode_one_nnn]
  | two => simp [decode_two_nnn]
  | three => simp [decode_three_xkk]
  | four => simp [decode_four_xkk]
  | five => simp [decode_five_xyn]
  | six => simp [decode_six_xkk]
  | seven => simp [decode_seven_xkk]
  | eight => simp [decode_eight_xyn, decodeAlu_eq_none]
  | nine => simp [decode_nine_xyn]
  | A => simp [decode_A_nnn]
  | B => simp [decode_B_nnn]
  | C => simp [decode_C_xkk]
  | D => simp [decode_D_xyn]
  | E => simp [decode_E_xkk, decodeKey_eq_none]
  | F => simp [decode_F_xkk, decodeMisc_eq_none]

/-! ### The match and mask columns (30_encoding.md R94) -/

/-- The row `j` matches the word (30_encoding.md R94). -/
def Instr.Matches (j : Instr) (w : Word) : Prop := w &&& j.mask = j.pattern

/-- Two instructions of one row. -/
def Instr.SameRow (i j : Instr) : Prop := i.mask = j.mask ∧ i.pattern = j.pattern

/-- An instruction's word is matched by the instruction's row. -/
theorem matches_encode : ∀ i : Instr, i.Matches (encode i)
  | .cls => Laws.TableMatch.cls
  | .ret => Laws.TableMatch.ret
  | .sys nnn => Laws.TableMatch.sys nnn
  | .jp nnn => Laws.TableMatch.jp nnn
  | .call nnn => Laws.TableMatch.call nnn
  | .seVxKk x kk => Laws.TableMatch.seVxKk x kk
  | .sneVxKk x kk => Laws.TableMatch.sneVxKk x kk
  | .seVxVy x y => Laws.TableMatch.seVxVy x y
  | .ldVxKk x kk => Laws.TableMatch.ldVxKk x kk
  | .addVxKk x kk => Laws.TableMatch.addVxKk x kk
  | .ldVxVy x y => Laws.TableMatch.ldVxVy x y
  | .orVxVy x y => Laws.TableMatch.orVxVy x y
  | .andVxVy x y => Laws.TableMatch.andVxVy x y
  | .xorVxVy x y => Laws.TableMatch.xorVxVy x y
  | .addVxVy x y => Laws.TableMatch.addVxVy x y
  | .sub x y => Laws.TableMatch.sub x y
  | .shr x y => Laws.TableMatch.shr x y
  | .subn x y => Laws.TableMatch.subn x y
  | .shl x y => Laws.TableMatch.shl x y
  | .sneVxVy x y => Laws.TableMatch.sneVxVy x y
  | .ldINnn nnn => Laws.TableMatch.ldINnn nnn
  | .jpV0 nnn => Laws.TableMatch.jpV0 nnn
  | .rnd x kk => Laws.TableMatch.rnd x kk
  | .drw x y n => Laws.TableMatch.drw x y n
  | .skp x => Laws.TableMatch.skp x
  | .sknp x => Laws.TableMatch.sknp x
  | .ldVxDt x => Laws.TableMatch.ldVxDt x
  | .ldVxK x => Laws.TableMatch.ldVxK x
  | .ldDtVx x => Laws.TableMatch.ldDtVx x
  | .ldStVx x => Laws.TableMatch.ldStVx x
  | .addIVx x => Laws.TableMatch.addIVx x
  | .ldFVx x => Laws.TableMatch.ldFVx x
  | .ldBVx x => Laws.TableMatch.ldBVx x
  | .ldMemVx x => Laws.TableMatch.ldMemVx x
  | .ldVxMem x => Laws.TableMatch.ldVxMem x

/-- A mask of all ones matches one word. -/
theorem eq_of_match_all {w p : Word} (h : w &&& 0xFFFF#16 = p) : w = p := by
  rw [← h, show (0xFFFF#16) = BitVec.allOnes 16 from rfl, BitVec.and_allOnes]

/-- The words that match a major opcode. -/
theorem exists_nnn_of_match {w : Word} {op : Nibble} (h : w &&& 0xF000#16 = op ++ 0#12) :
    ∃ nnn : Imm12, op ++ nnn = w := by
  have hw := fieldOp_append_fieldNnn w
  rw [← hw, mask_nnn] at h
  have hop := congrArg fieldOp h
  rw [fieldOp_nnn, fieldOp_nnn] at hop
  exact ⟨fieldNnn w, by rw [← hop, hw]⟩

/-- The words that match a major opcode, in the shape XKK. -/
theorem exists_xkk_of_match {w : Word} {op : Nibble} (h : w &&& 0xF000#16 = op ++ 0#4 ++ 0#8) :
    ∃ (x : Nibble) (kk : Byte), op ++ x ++ kk = w := by
  have hw := fieldOp_append_fieldX_append_fieldKk w
  rw [← hw, mask_xkk] at h
  have hop := congrArg fieldOp h
  rw [fieldOp_xkk, fieldOp_xkk] at hop
  exact ⟨fieldX w, fieldKk w, by rw [← hop, hw]⟩

/-- The words that match a major opcode, in the shape XYN. -/
theorem exists_xyn_of_match {w : Word} {op : Nibble} (h : w &&& 0xF000#16 = op ++ 0#4 ++ 0#4 ++ 0#4) :
    ∃ x y n : Nibble, op ++ x ++ y ++ n = w := by
  have hw := fieldOp_append_fieldX_append_fieldY_append_fieldN w
  rw [← hw, mask_xyn] at h
  have hop := congrArg fieldOp h
  rw [fieldOp_xyn, fieldOp_xyn] at hop
  exact ⟨fieldX w, fieldY w, fieldN w, by rw [← hop, hw]⟩

/-- The words that match a major opcode and a low nibble. -/
theorem exists_xy_of_match {w : Word} {op n : Nibble} (h : w &&& 0xF00F#16 = op ++ 0#4 ++ 0#4 ++ n) :
    ∃ x y : Nibble, op ++ x ++ y ++ n = w := by
  have hw := fieldOp_append_fieldX_append_fieldY_append_fieldN w
  rw [← hw, mask_xyn_sub] at h
  have hop := congrArg fieldOp h
  have hn := congrArg fieldN h
  rw [fieldOp_xyn, fieldOp_xyn] at hop
  rw [fieldN_xyn, fieldN_xyn] at hn
  exact ⟨fieldX w, fieldY w, by rw [← hop, ← hn, hw]⟩

/-- The words that match a major opcode and a low byte. -/
theorem exists_x_of_match {w : Word} {op : Nibble} {kk : Byte} (h : w &&& 0xF0FF#16 = op ++ 0#4 ++ kk) :
    ∃ x : Nibble, op ++ x ++ kk = w := by
  have hw := fieldOp_append_fieldX_append_fieldKk w
  rw [← hw, mask_xkk_sub] at h
  have hop := congrArg fieldOp h
  have hkk := congrArg fieldKk h
  rw [fieldOp_xkk, fieldOp_xkk] at hop
  rw [fieldKk_xkk, fieldKk_xkk] at hkk
  exact ⟨fieldX w, by rw [← hop, ← hkk, hw]⟩

/-- A word that a row matches is the word of an instruction of that row. -/
theorem exists_encode_of_matches {w : Word} : ∀ j : Instr, j.Matches w → ∃ i : Instr, encode i = w ∧ i.SameRow j
  | .cls, h => ⟨.cls, (eq_of_match_all h).symm, rfl, rfl⟩
  | .ret, h => ⟨.ret, (eq_of_match_all h).symm, rfl, rfl⟩
  | .sys _, h => by
    obtain ⟨nnn, hw⟩ := exists_nnn_of_match (op := 0x0) h
    exact ⟨.sys nnn, hw, rfl, rfl⟩
  | .jp _, h => by
    obtain ⟨nnn, hw⟩ := exists_nnn_of_match (op := 0x1) h
    exact ⟨.jp nnn, hw, rfl, rfl⟩
  | .call _, h => by
    obtain ⟨nnn, hw⟩ := exists_nnn_of_match (op := 0x2) h
    exact ⟨.call nnn, hw, rfl, rfl⟩
  | .seVxKk _ _, h => by
    obtain ⟨x, kk, hw⟩ := exists_xkk_of_match (op := 0x3) h
    exact ⟨.seVxKk x kk, hw, rfl, rfl⟩
  | .sneVxKk _ _, h => by
    obtain ⟨x, kk, hw⟩ := exists_xkk_of_match (op := 0x4) h
    exact ⟨.sneVxKk x kk, hw, rfl, rfl⟩
  | .seVxVy _ _, h => by
    obtain ⟨x, y, hw⟩ := exists_xy_of_match (op := 0x5) (n := 0x0) h
    exact ⟨.seVxVy x y, hw, rfl, rfl⟩
  | .ldVxKk _ _, h => by
    obtain ⟨x, kk, hw⟩ := exists_xkk_of_match (op := 0x6) h
    exact ⟨.ldVxKk x kk, hw, rfl, rfl⟩
  | .addVxKk _ _, h => by
    obtain ⟨x, kk, hw⟩ := exists_xkk_of_match (op := 0x7) h
    exact ⟨.addVxKk x kk, hw, rfl, rfl⟩
  | .ldVxVy _ _, h => by
    obtain ⟨x, y, hw⟩ := exists_xy_of_match (op := 0x8) (n := 0x0) h
    exact ⟨.ldVxVy x y, hw, rfl, rfl⟩
  | .orVxVy _ _, h => by
    obtain ⟨x, y, hw⟩ := exists_xy_of_match (op := 0x8) (n := 0x1) h
    exact ⟨.orVxVy x y, hw, rfl, rfl⟩
  | .andVxVy _ _, h => by
    obtain ⟨x, y, hw⟩ := exists_xy_of_match (op := 0x8) (n := 0x2) h
    exact ⟨.andVxVy x y, hw, rfl, rfl⟩
  | .xorVxVy _ _, h => by
    obtain ⟨x, y, hw⟩ := exists_xy_of_match (op := 0x8) (n := 0x3) h
    exact ⟨.xorVxVy x y, hw, rfl, rfl⟩
  | .addVxVy _ _, h => by
    obtain ⟨x, y, hw⟩ := exists_xy_of_match (op := 0x8) (n := 0x4) h
    exact ⟨.addVxVy x y, hw, rfl, rfl⟩
  | .sub _ _, h => by
    obtain ⟨x, y, hw⟩ := exists_xy_of_match (op := 0x8) (n := 0x5) h
    exact ⟨.sub x y, hw, rfl, rfl⟩
  | .shr _ _, h => by
    obtain ⟨x, y, hw⟩ := exists_xy_of_match (op := 0x8) (n := 0x6) h
    exact ⟨.shr x y, hw, rfl, rfl⟩
  | .subn _ _, h => by
    obtain ⟨x, y, hw⟩ := exists_xy_of_match (op := 0x8) (n := 0x7) h
    exact ⟨.subn x y, hw, rfl, rfl⟩
  | .shl _ _, h => by
    obtain ⟨x, y, hw⟩ := exists_xy_of_match (op := 0x8) (n := 0xE) h
    exact ⟨.shl x y, hw, rfl, rfl⟩
  | .sneVxVy _ _, h => by
    obtain ⟨x, y, hw⟩ := exists_xy_of_match (op := 0x9) (n := 0x0) h
    exact ⟨.sneVxVy x y, hw, rfl, rfl⟩
  | .ldINnn _, h => by
    obtain ⟨nnn, hw⟩ := exists_nnn_of_match (op := 0xA) h
    exact ⟨.ldINnn nnn, hw, rfl, rfl⟩
  | .jpV0 _, h => by
    obtain ⟨nnn, hw⟩ := exists_nnn_of_match (op := 0xB) h
    exact ⟨.jpV0 nnn, hw, rfl, rfl⟩
  | .rnd _ _, h => by
    obtain ⟨x, kk, hw⟩ := exists_xkk_of_match (op := 0xC) h
    exact ⟨.rnd x kk, hw, rfl, rfl⟩
  | .drw _ _ _, h => by
    obtain ⟨x, y, n, hw⟩ := exists_xyn_of_match (op := 0xD) h
    exact ⟨.drw x y n, hw, rfl, rfl⟩
  | .skp _, h => by
    obtain ⟨x, hw⟩ := exists_x_of_match (op := 0xE) (kk := 0x9E) h
    exact ⟨.skp x, hw, rfl, rfl⟩
  | .sknp _, h => by
    obtain ⟨x, hw⟩ := exists_x_of_match (op := 0xE) (kk := 0xA1) h
    exact ⟨.sknp x, hw, rfl, rfl⟩
  | .ldVxDt _, h => by
    obtain ⟨x, hw⟩ := exists_x_of_match (op := 0xF) (kk := 0x07) h
    exact ⟨.ldVxDt x, hw, rfl, rfl⟩
  | .ldVxK _, h => by
    obtain ⟨x, hw⟩ := exists_x_of_match (op := 0xF) (kk := 0x0A) h
    exact ⟨.ldVxK x, hw, rfl, rfl⟩
  | .ldDtVx _, h => by
    obtain ⟨x, hw⟩ := exists_x_of_match (op := 0xF) (kk := 0x15) h
    exact ⟨.ldDtVx x, hw, rfl, rfl⟩
  | .ldStVx _, h => by
    obtain ⟨x, hw⟩ := exists_x_of_match (op := 0xF) (kk := 0x18) h
    exact ⟨.ldStVx x, hw, rfl, rfl⟩
  | .addIVx _, h => by
    obtain ⟨x, hw⟩ := exists_x_of_match (op := 0xF) (kk := 0x1E) h
    exact ⟨.addIVx x, hw, rfl, rfl⟩
  | .ldFVx _, h => by
    obtain ⟨x, hw⟩ := exists_x_of_match (op := 0xF) (kk := 0x29) h
    exact ⟨.ldFVx x, hw, rfl, rfl⟩
  | .ldBVx _, h => by
    obtain ⟨x, hw⟩ := exists_x_of_match (op := 0xF) (kk := 0x33) h
    exact ⟨.ldBVx x, hw, rfl, rfl⟩
  | .ldMemVx _, h => by
    obtain ⟨x, hw⟩ := exists_x_of_match (op := 0xF) (kk := 0x55) h
    exact ⟨.ldMemVx x, hw, rfl, rfl⟩
  | .ldVxMem _, h => by
    obtain ⟨x, hw⟩ := exists_x_of_match (op := 0xF) (kk := 0x65) h
    exact ⟨.ldVxMem x, hw, rfl, rfl⟩

/-- An instruction that is not well-formed is `SYS` with the word of `CLS` or `RET` (30_encoding.md R93). -/
theorem eq_sys_of_not_wf {i : Instr} (h : i.wf ≠ true) : i = .sys 0x0E0 ∨ i = .sys 0x0EE := by
  cases i
  case sys nnn =>
    have hnnn : nnn = 0x0E0 ∨ nnn = 0x0EE := by simpa [Instr.wf, or_iff_not_imp_left] using h
    exact hnnn.imp (congrArg _) (congrArg _)
  all_goals exact absurd rfl h

/-- What the decoder makes of a word that the row of `j` matches: an instruction of that row, unless the row is 0nnn and the
word is 00E0 or 00EE. -/
theorem decode_of_matches {w : Word} {j : Instr} (h : j.Matches w) :
    (∃ i : Instr, decode w = some i ∧ i.SameRow j) ∨
    ((Instr.sys 0).SameRow j ∧ (w = 0x00E0#16 ∧ decode w = some .cls ∨ w = 0x00EE#16 ∧ decode w = some .ret)) := by
  obtain ⟨i, rfl, hrow⟩ := exists_encode_of_matches j h
  by_cases hwf : i.wf = true
  · exact .inl ⟨i, decode_encode i hwf, hrow⟩
  · rcases eq_sys_of_not_wf hwf with rfl | rfl
    · exact .inr ⟨hrow, .inl ⟨rfl, decode_00E0⟩⟩
    · exact .inr ⟨hrow, .inr ⟨rfl, decode_00EE⟩⟩

/-- Settles O4: a word that decodes is matched by its instruction's row, and `decode_of_matches` says the rest. -/
theorem matchAndMaskColumnsDecide : Obligations.MatchAndMaskColumnsDecide := by
  refine fun w => ⟨⟨fun ⟨j, hj⟩ => ?_, fun hw => ?_⟩, fun i j hi hj => ?_⟩
  · rcases decode_of_matches hj with ⟨i, hi, -⟩ | ⟨-, ⟨-, hi⟩ | ⟨-, hi⟩⟩ <;> simp [hi]
  · obtain ⟨i, hi⟩ := Option.ne_none_iff_exists'.mp hw
    exact ⟨i, (encode_of_decode hi).2 ▸ matches_encode i⟩
  · rcases decode_of_matches hj with ⟨k, hk, hmask, hpattern⟩ | ⟨⟨hmask, hpattern⟩, hw⟩
    · cases hi.symm.trans hk
      exact .inl ⟨hmask.symm, hpattern.symm⟩
    · exact .inr ⟨hmask.symm, hpattern.symm, hw.imp And.left And.left⟩

/-- Settles O1: eleven runs of the decoder. -/
theorem knownWordsDecode : Obligations.KnownWordsDecode := by
  unfold Obligations.KnownWordsDecode
  decide

end Sys2Proof

/-! Frames: what each update of the state leaves alone, and how frames are put together. -/

namespace Sys2Proof.Machine

/-- A part that two updates in a row leave alone. -/
theorem Part.Same.trans {p : Part} {s t u : State} (h : p.Same s t) (h' : p.Same t u) : p.Same s u := by
  cases p with
  | regs => exact fun r => (h' r).trans (h r)
  | mem => exact fun a => (h' a).trans (h a)
  | disp => exact fun px py => (h' px py).trans (h px py)
  | stack => exact ⟨h'.1.trans h.1, fun j => (h'.2 j).trans (h.2 j)⟩
  | wait => exact ⟨h'.1.trans h.1, h'.2.trans h.2⟩
  | _ => exact Eq.trans h' h

/-- A frame with more parts written. -/
theorem UnchangedExcept.mono {l m : List Part} {s t : State} (h : UnchangedExcept l s t) (hlm : l ⊆ m) :
    UnchangedExcept m s t :=
  fun p hp => h p fun hl => hp (hlm hl)

/-- The frame of two updates in a row. -/
theorem UnchangedExcept.trans {l m : List Part} {s t u : State} (h : UnchangedExcept l s t)
    (h' : UnchangedExcept m t u) : UnchangedExcept (l ++ m) s u :=
  fun p hp => (h p (mt (List.mem_append_left m) hp)).trans (h' p (mt (List.mem_append_right l) hp))

/-- A part that was written with what it held is left alone. -/
theorem UnchangedExcept.of_same {q : Part} {l : List Part} {s t : State} (h : UnchangedExcept (q :: l) s t)
    (hq : q.Same s t) : UnchangedExcept l s t := by
  intro p hp
  by_cases hpq : p = q
  · exact hpq ▸ hq
  · exact h p (List.not_mem_cons_of_ne_of_not_mem hpq hp)

/-! ### One frame per update -/

/-- A write of the stack leaves every other part of the state alone. -/
theorem State.setStack_unchanged (s : State) (k : Vector Word 16) (n : Fin 17) :
    UnchangedExcept [.stack] s (s.setStack k n) := by
  intro p hp
  cases p with
  | stack => exact absurd (List.mem_singleton.mpr rfl) hp
  | _ => simp [Part.Same]

/-- A write of `DT` leaves every other part of the state alone. -/
theorem State.setDt_unchanged (s : State) (b : Byte) : UnchangedExcept [.dt] s (s.setDt b) := by
  intro p hp
  cases p with
  | dt => exact absurd (List.mem_singleton.mpr rfl) hp
  | _ => simp [Part.Same]

/-- A write of `ST` leaves every other part of the state alone. -/
theorem State.setSt_unchanged (s : State) (b : Byte) : UnchangedExcept [.st] s (s.setSt b) := by
  intro p hp
  cases p with
  | st => exact absurd (List.mem_singleton.mpr rfl) hp
  | _ => simp [Part.Same]

/-- A write of memory leaves every other part of the state alone. -/
theorem State.setMem_unchanged (s : State) (m : Memory) : UnchangedExcept [.mem] s (s.setMem m) := by
  intro p hp
  cases p with
  | mem => exact absurd (List.mem_singleton.mpr rfl) hp
  | _ => simp [Part.Same]

/-- Entering the wait leaves every other part of the state alone. -/
theorem State.enterWait_unchanged (s : State) (r : Nibble) : UnchangedExcept [.wait] s (s.enterWait r) := by
  intro p hp
  cases p with
  | wait => exact absurd (List.mem_singleton.mpr rfl) hp
  | _ => simp [Part.Same]

/-- Ending the wait leaves every other part of the state alone. -/
theorem State.endWait_unchanged (s : State) : UnchangedExcept [.wait] s s.endWait := by
  intro p hp
  cases p with
  | wait => exact absurd (List.mem_singleton.mpr rfl) hp
  | _ => simp [Part.Same]

/-- Fx65 leaves every part of the state but the registers alone. -/
theorem State.loadRegs_unchanged (s : State) (x : Nibble) : UnchangedExcept [.regs] s (s.loadRegs x) := by
  intro p hp
  cases p with
  | regs => exact absurd (List.mem_singleton.mpr rfl) hp
  | _ => simp [Part.Same]

/-- A raise leaves every part of the state but `pc` and the record alone. -/
theorem State.raise_unchanged (s : State) (k : FaultKind) (pc0 : Word) (ir addr : Option Word) :
    UnchangedExcept [.pc, .fault] s (s.raise k pc0 ir addr) := by
  intro p hp
  cases p with
  | pc => exact absurd (by simp) hp
  | fault => exact absurd (by simp) hp
  | _ => simp [Part.Same]

/-- Taking an event leaves every part of the state but the model's own fields alone. -/
theorem State.withInbox_unchanged (s : State) (rest : List HostEvent) : UnchangedExcept [.env] s (s.withInbox rest) := by
  intro p hp
  cases p with
  | env => exact absurd (List.mem_singleton.mpr rfl) hp
  | _ => simp [Part.Same]

/-- Sampling the inputs leaves every part of the state but the model's own fields alone. -/
theorem State.sampled_unchanged (s : State) : UnchangedExcept [.env] s s.sampled := by
  intro p hp
  cases p with
  | env => exact absurd (List.mem_singleton.mpr rfl) hp
  | _ => simp [Part.Same]

/-- Advancing past an instruction leaves every part of the state but `pc` and `IR` alone. -/
theorem State.advance_unchanged (s : State) (w : Word) : UnchangedExcept [.pc, .ir] s (s.advance w) := by
  intro p hp
  cases p with
  | pc => exact absurd (by simp) hp
  | ir => exact absurd (by simp) hp
  | _ => simp [Part.Same]

/-- The end of a tick leaves every part of the state but `IR` and the model's own fields alone. -/
theorem State.endTick_unchanged (s : State) : UnchangedExcept [.ir, .env] s s.endTick := by
  intro p hp
  cases p with
  | ir => exact absurd (by simp) hp
  | env => exact absurd (by simp) hp
  | _ => simp [Part.Same]

/-- Drawing a sprite leaves every part of the state but the display and the registers alone. -/
theorem State.drawn_unchanged (s : State) (r : Grid × Bool) : UnchangedExcept [.disp, .regs] s (s.drawn r) :=
  (s.setDisp_unchanged r.1).trans ((s.setDisp r.1).setReg_unchanged 0xF (flagByte r.2))

/-- A result and a flag leave every part of the state but the registers alone, in either order. -/
theorem State.setReg_setReg_unchanged (s : State) (x y : Nibble) (a b : Byte) :
    UnchangedExcept [.regs] s ((s.setReg x a).setReg y b) :=
  ((s.setReg_unchanged x a).trans ((s.setReg x a).setReg_unchanged y b)).mono (by simp)

end Sys2Proof.Machine

/-! Proofs for the faults of executing instructions (60_exceptions.md R260 to R265). -/

namespace Sys2Proof.Machine

/-! ### The drawn state, field by field -/

@[simp] theorem State.drawn_i (s : State) (r : Grid × Bool) : (s.drawn r).i = s.i := rfl
@[simp] theorem State.drawn_pc (s : State) (r : Grid × Bool) : (s.drawn r).pc = s.pc := rfl
@[simp] theorem State.drawn_mem (s : State) (r : Grid × Bool) : (s.drawn r).mem = s.mem := rfl
@[simp] theorem State.drawn_stk (s : State) (r : Grid × Bool) : (s.drawn r).stk = s.stk := rfl
@[simp] theorem State.drawn_sp (s : State) (r : Grid × Bool) : (s.drawn r).sp = s.sp := rfl
@[simp] theorem State.drawn_dt (s : State) (r : Grid × Bool) : (s.drawn r).dt = s.dt := rfl
@[simp] theorem State.drawn_st (s : State) (r : Grid × Bool) : (s.drawn r).st = s.st := rfl
@[simp] theorem State.drawn_disp (s : State) (r : Grid × Bool) : (s.drawn r).disp = r.1 := rfl
@[simp] theorem State.drawn_ir (s : State) (r : Grid × Bool) : (s.drawn r).ir = s.ir := rfl
@[simp] theorem State.drawn_wait (s : State) (r : Grid × Bool) : (s.drawn r).wait = s.wait := rfl
@[simp] theorem State.drawn_wreg (s : State) (r : Grid × Bool) : (s.drawn r).wreg = s.wreg := rfl
@[simp] theorem State.drawn_fault (s : State) (r : Grid × Bool) : (s.drawn r).fault = s.fault := rfl
@[simp] theorem State.drawn_env (s : State) (r : Grid × Bool) : (s.drawn r).env = s.env := rfl
@[simp] theorem State.drawn_reg (s : State) (r : Grid × Bool) (q : Nibble) :
    (s.drawn r).reg q = if q = 0xF then flagByte r.2 else s.reg q := State.setFlag_reg (s.setDisp r.1) r.2 q

/-! ### Which instruction raises what, and when -/

/-- Executing `i` in `s` raises a fault of this kind (60_exceptions.md R264). -/
def Raises (i : Instr) (s : State) : FaultKind → Prop
  | .none => False
  | .outOfBounds =>
    (∃ x y n : Nibble, i = .drw x y n ∧ 0 < n.toNat ∧ 4095 < s.i.toNat + n.toNat - 1) ∨
    (∃ x : Nibble, i = .ldBVx x ∧ 4095 < s.i.toNat + 2) ∨
    (∃ x : Nibble, (i = .ldMemVx x ∨ i = .ldVxMem x) ∧ 4095 < s.i.toNat + x.toNat)
  | .invalidInstruction => False
  | .stackOverflow => s.sp.val = 16 ∧ ∃ nnn : Imm12, i = .call nnn
  | .stackUnderflow => s.sp.val = 0 ∧ i = .ret

/-- The address that a fault of this kind records, where it records one (60_exceptions.md R265). -/
def State.faultAddr (s : State) : FaultKind → Option Word
  | .outOfBounds => some s.dataFaultAddr
  | .none => none
  | .invalidInstruction => none
  | .stackOverflow => none
  | .stackUnderflow => none

/-- The state after an instruction has raised a fault of this kind. -/
def State.raised (s : State) (k : FaultKind) : State := s.raiseHere k (s.faultAddr k)

/-- Out of bounds, a data access raises. -/
theorem State.access_of_outOfBounds {s : State} {n : Nat} (t : State) (h0 : n ≠ 0) (h : 4096 < s.i.toNat + n) :
    s.access n t = .next (s.raised .outOfBounds) := by
  rcases s.access_cases n t with ⟨hin, -⟩ | ⟨-, he⟩
  · omega
  · exact he

/-- In bounds, a data access goes on to its effect. -/
theorem State.access_of_inBounds {s : State} {n : Nat} (t : State) (h : n = 0 ∨ s.i.toNat + n ≤ 4096) :
    s.access n t = .next t := by
  rcases s.access_cases n t with ⟨-, he⟩ | ⟨hout, -⟩
  · exact he
  · omega

/-- The raise, from its condition. -/
theorem exec_of_raises {i : Instr} {s : State} {k : FaultKind} (h : Raises i s k) : exec i s = .next (s.raised k) := by
  cases k with
  | none => exact h.elim
  | invalidInstruction => exact h.elim
  | stackOverflow =>
    obtain ⟨hsp, nnn, rfl⟩ := h
    simp only [exec, execCall, s.push_of_full _ hsp]
    rfl
  | stackUnderflow =>
    obtain ⟨hsp, rfl⟩ := h
    simp only [exec, execRet, s.pop_of_zero hsp]
    rfl
  | outOfBounds =>
    rcases h with ⟨x, y, n, rfl, h0, h⟩ | ⟨x, rfl, h⟩ | ⟨x, rfl | rfl, h⟩
    · exact State.access_of_outOfBounds _ (by omega) (by omega)
    · exact State.access_of_outOfBounds _ (by omega) (by omega)
    · exact State.access_of_outOfBounds _ (Nat.succ_ne_zero _) (by unfold regCount; omega)
    · exact State.access_of_outOfBounds _ (Nat.succ_ne_zero _) (by unfold regCount; omega)

/-- An instruction keeps the fault record, or it raises. -/
theorem exec_fault_cases {i : Instr} {s t : State} (h : exec i s = .next t) :
    t.fault = s.fault ∨ ∃ k : FaultKind, Raises i s k ∧ t = s.raised k := by
  cases exec_cases h
  case callFault nnn hsp hi ht => exact .inr ⟨.stackOverflow, ⟨hsp, nnn, hi⟩, ht⟩
  case retFault hsp hi ht => exact .inr ⟨.stackUnderflow, ⟨hsp, hi⟩, ht⟩
  case outOfBounds n h0 hn hi ht =>
    refine .inr ⟨.outOfBounds, ?_, ht⟩
    rcases hi with ⟨x, y, k, hi, rfl⟩ | ⟨x, hi, rfl⟩ | ⟨x, hi, rfl⟩
    · exact .inl ⟨x, y, k, hi, by omega, by omega⟩
    · exact .inr (.inl ⟨x, hi, by omega⟩)
    · exact .inr (.inr ⟨x, hi, by omega⟩)
  case flag hi ht => rcases ht with rfl | rfl <;> exact .inl rfl
  all_goals subst t; exact .inl rfl

/-- With no fault before, the kind recorded after an instruction is the one it raises. -/
theorem exec_fault_kind_iff {i : Instr} {s t : State} {k : FaultKind} (hs : s.fault.kind = .none) (hk : k ≠ .none)
    (h : exec i s = .next t) : t.fault.kind = k ↔ Raises i s k := by
  constructor
  · rintro rfl
    rcases exec_fault_cases h with hf | ⟨k, hraises, rfl⟩
    · rw [hf] at hk
      exact absurd hs hk
    · exact hraises
  · intro hraises
    cases h.symm.trans (exec_of_raises hraises)
    rfl

/-- Settles O50: `exec_fault_kind_iff` at each kind. -/
theorem faultsAreTheListedOnes : Obligations.FaultsAreTheListedOnes :=
  fun _ _ _ hs h => ⟨exec_fault_kind_iff hs nofun h, exec_fault_kind_iff hs nofun h, exec_fault_kind_iff hs nofun h,
    (exec_fault_kind_iff (k := .invalidInstruction) hs nofun h).mp⟩

/-- The raise by an executing instruction fills the record, puts `pc` back, and does nothing else. -/
theorem State.raiseHere_raisedHere (s : State) (k : FaultKind) (a : Option Word) : RaisedHere k s (s.raiseHere k a) :=
  ⟨rfl, rfl, rfl, rfl, s.raise_unchanged _ _ _ _⟩

/-- Settles O49: an instruction that does not keep the record has raised, and did nothing else. -/
theorem faultingInstructionChangesNothing : Obligations.FaultingInstructionChangesNothing := by
  intro i s t hs h ht
  rcases exec_fault_cases h with hf | ⟨k, -, rfl⟩
  · exact absurd (hf ▸ hs) ht
  · exact s.raiseHere_raisedHere k _

/-- An instruction that raises answers the state with the record filled and nothing else changed. -/
theorem exec_raisedHere {i : Instr} {s : State} {k : FaultKind} (h : Raises i s k) :
    ∃ t : State, exec i s = .next t ∧ RaisedHere k s t :=
  ⟨_, exec_of_raises h, s.raiseHere_raisedHere k _⟩

/-- The same for an out-of-bounds access, with the address it records. -/
theorem exec_raisedHere_outOfBounds {i : Instr} {s : State} (h : Raises i s .outOfBounds) :
    ∃ t : State, exec i s = .next t ∧ RaisedHere .outOfBounds s t ∧ t.fault.addr.toNat = max s.i.toNat 4096 :=
  ⟨_, exec_of_raises h, s.raiseHere_raisedHere _ _, s.dataFaultAddr_toNat⟩

/-- Settles O34: each of the four forms meets the condition of the raise. -/
theorem dataAccessOutOfBoundsRaises : Obligations.DataAccessOutOfBoundsRaises :=
  fun x y n _ => ⟨fun h => exec_raisedHere_outOfBounds (.inr (.inl ⟨x, rfl, h⟩)),
    fun h => exec_raisedHere_outOfBounds (.inr (.inr ⟨x, .inl rfl, h⟩)),
    fun h => exec_raisedHere_outOfBounds (.inr (.inr ⟨x, .inr rfl, h⟩)),
    fun h0 h => exec_raisedHere_outOfBounds (.inl ⟨x, y, n, rfl, h0, h⟩)⟩

end Sys2Proof.Machine

/-! Proofs for the invariants of a step (20_memory.md R60, 10_state.md R27, 60_exceptions.md R262 to R265). -/

namespace Sys2Proof.Machine

/-! ### What an event of the host leaves alone -/

/-- A timer tick writes the two timers, or nothing. -/
theorem State.onTimerTick_cases (s : State) :
    (s.fault.kind ≠ .none ∧ s.onTimerTick = s) ∨
    (s.fault.kind = .none ∧ s.onTimerTick = (s.setDt (countDown s.dt)).setSt (countDown s.st)) := by
  unfold State.onTimerTick
  split
  · exact .inl ⟨s.halted_iff.mp ‹_›, rfl⟩
  · exact .inr ⟨s.halted_eq_false.mp (by simpa using ‹¬ s.halted = true›), rfl⟩

/-- A key press writes the register that waits for it and ends the wait, or does nothing. -/
theorem State.onKeyPress_cases (s : State) (k : Nibble) :
    ((s.fault.kind ≠ .none ∨ s.wait = false) ∧ s.onKeyPress k = s) ∨
    (s.fault.kind = .none ∧ s.wait = true ∧ s.onKeyPress k = (s.setReg s.wreg (zext8 k)).endWait) := by
  unfold State.onKeyPress
  split
  · exact .inl ⟨.inl (s.halted_iff.mp ‹_›), rfl⟩
  · have hk := s.halted_eq_false.mp (by simpa using ‹¬ s.halted = true›)
    split
    · exact .inr ⟨hk, ‹_›, rfl⟩
    · exact .inl ⟨.inr (by simpa using ‹¬ s.wait = true›), rfl⟩

/-- A load writes memory from 0x200 upward, or does nothing when the bytes do not fit. -/
theorem State.onLoad_cases (s : State) (bytes : List Byte) :
    (bytes.length ≤ 3584 ∧ s.onLoad bytes = s.setMem (Memory.writeList s.mem 0x200 bytes)) ∨
    (3584 < bytes.length ∧ s.onLoad bytes = s) := by
  unfold State.onLoad Config.progBase Config.memSize
  split
  · exact .inl ⟨by omega, rfl⟩
  · exact .inr ⟨by omega, rfl⟩

/-! ### Memory in canonical form -/

/-- Executing an instruction stores bytes inside the space, or leaves memory alone. -/
theorem exec_mem_cases {i : Instr} {s t : State} (h : exec i s = .next t) :
    t.mem = s.mem ∨ ∃ bytes : List Byte, s.i.toNat + bytes.length ≤ 4096 ∧
      t.mem = Memory.writeList s.mem s.i.toNat bytes ∧
      ∃ x : Nibble, (i = .ldBVx x ∧ bytes.length = 3) ∨ (i = .ldMemVx x ∧ bytes.length = x.toNat + 1) := by
  cases exec_cases h
  case store n bytes hin hn hi ht =>
    subst hn ht
    exact .inr ⟨bytes, hin, rfl, hi.elim (fun ⟨x, hx⟩ => ⟨x, .inl hx⟩) (fun ⟨x, hx⟩ => ⟨x, .inr hx⟩)⟩
  case flag hi ht => rcases ht with rfl | rfl <;> exact .inl rfl
  all_goals subst t; exact .inl rfl

/-- Executing an instruction keeps memory canonical. -/
theorem exec_keeps_memoryCanonical {i : Instr} {s t : State} (hs : s.MemoryCanonical) (h : exec i s = .next t) :
    t.MemoryCanonical := by
  rcases exec_mem_cases h with hm | ⟨bytes, hin, hm, -⟩
  · rwa [State.MemoryCanonical, hm]
  · rw [State.MemoryCanonical, hm]
    exact Memory.writeList_wf _ _ _ hin hs

/-- An event of the host keeps memory canonical. -/
theorem deliver_keeps_memoryCanonical {s t : State} {e : HostEvent} (hs : s.MemoryCanonical)
    (h : s.deliver e = .next t) : t.MemoryCanonical := by
  rcases State.deliver_cases h with ⟨-, rfl⟩ | ⟨bytes, -, -, rfl⟩ | ⟨-, rfl⟩ | ⟨k, -, rfl⟩
  · exact ⟨.nil, nofun⟩
  · rcases s.onLoad_cases bytes with ⟨hlen, he⟩ | ⟨-, he⟩ <;> rw [he]
    · exact Memory.writeList_wf _ _ _ (by rw [Config.memSize]; omega) hs
    · exact hs
  · rcases s.onTimerTick_cases with ⟨-, he⟩ | ⟨-, he⟩ <;> rw [he] <;> exact hs
  · rcases s.onKeyPress_cases k with ⟨-, he⟩ | ⟨-, -, he⟩ <;> rw [he] <;> exact hs

/-- Settles O58: only a store and a load write memory, and both write inside the space. -/
theorem stepKeepsMemoryCanonical : Obligations.StepKeepsMemoryCanonical := by
  intro s t hs h
  rcases step_cases h with ⟨e, rest, -, he⟩ | ⟨-, -, -, rfl⟩ | ⟨-, -, rfl⟩ | ⟨-, -, -, rfl⟩ | ⟨w, i, u, -, hx, rfl⟩
  · exact deliver_keeps_memoryCanonical (s := s.withInbox rest) hs he
  · exact hs
  · exact hs
  · exact hs
  · exact exec_keeps_memoryCanonical (s := s.sampled.advance w) (t := u) hs hx

/-! ### Addresses in bounds -/

/-- What an instruction does to `pc` (10_state.md R26). -/
inductive PcCase (i : Instr) (s t : State) : Prop
  /-- it keeps the advanced value -/
  | kept (hpc : t.pc = s.pc)
  /-- a fault puts it back to the instruction's address -/
  | putBack (hk : t.fault.kind ≠ .none) (hpc : t.pc = s.pc - 2)
  /-- a return takes it from the stack -/
  | popped (hi : i = .ret) (j : Fin 16) (hj : s.sp.val = j.val + 1) (hpc : t.pc = s.stk[j])
  /-- a jump or call loads it with the target -/
  | loaded (nnn : Imm12) (hi : i = .jp nnn ∨ i = .call nnn) (hpc : t.pc = addrOfImm nnn)
  /-- a jump through `V[0]` loads it with the sum -/
  | loadedSum (nnn : Imm12) (hi : i = .jpV0 nnn) (hpc : t.pc = addrOfImm nnn + zext16 (s.reg 0))
  /-- a skip that is taken adds 2 -/
  | skipped (hpc : t.pc = s.pc + 2)
      (hi : (∃ (x : Nibble) (kk : Byte), i = .seVxKk x kk ∨ i = .sneVxKk x kk) ∨
        (∃ x y : Nibble, i = .seVxVy x y ∨ i = .sneVxVy x y) ∨ (∃ x : Nibble, i = .skp x ∨ i = .sknp x))

/-- Every instruction treats `pc` in one of these ways. -/
theorem exec_pc_cases {i : Instr} {s t : State} (h : exec i s = .next t) : PcCase i s t := by
  cases exec_cases h
  case call nnn hsp hi ht => exact .loaded nnn (.inr hi) (ht ▸ rfl)
  case callFault ht => subst ht; exact .putBack nofun rfl
  case ret n hn hsp hi ht => exact .popped hi ⟨n, hn⟩ hsp (ht ▸ rfl)
  case retFault ht => subst ht; exact .putBack nofun rfl
  case outOfBounds ht => subst ht; exact .putBack nofun rfl
  case skip c hi ht =>
    cases c with
    | false => exact .kept (ht ▸ rfl)
    | true => exact .skipped (ht ▸ rfl) hi
  case jump nnn hi ht => exact .loaded nnn (.inl hi) (ht ▸ rfl)
  case jumpV0 nnn hi ht => exact .loadedSum nnn hi (ht ▸ rfl)
  case flag hi ht => rcases ht with rfl | rfl <;> exact .kept rfl
  all_goals subst t; exact .kept rfl

/-- What an instruction does to the stack: a call puts the advanced `pc` on top, a return takes the top off, no other
instruction changes it (10_state.md R31). -/
theorem exec_stack_cases {i : Instr} {s t : State} (h : exec i s = .next t) :
    (t.stk = s.stk ∧ t.sp = s.sp) ∨
    (i = .ret ∧ t.stk = s.stk ∧ s.sp.val = t.sp.val + 1) ∨
    (∃ nnn : Imm12, i = .call nnn ∧ ∃ hsp : s.sp.val < 16, t.stk = s.stk.set s.sp.val s.pc hsp ∧ t.sp.val = s.sp.val + 1) := by
  cases exec_cases h
  case call nnn hsp hi ht => exact .inr (.inr ⟨nnn, hi, hsp, ht ▸ ⟨rfl, rfl⟩⟩)
  case ret n hn hsp hi ht => exact .inr (.inl ⟨hi, ht ▸ ⟨rfl, hsp⟩⟩)
  case flag hi ht => rcases ht with rfl | rfl <;> exact .inl ⟨rfl, rfl⟩
  all_goals subst t; exact .inl ⟨rfl, rfl⟩

/-- A jump through `V[0]` is the exact sum: at most 0xFFF + 0xFF, it never wraps (41_control_flow.md R145). -/
@[simp] theorem addrOfImm_add_zext16_toNat (nnn : Imm12) (b : Byte) :
    (addrOfImm nnn + zext16 b).toNat = nnn.toNat + b.toNat := by
  have hnnn := nnn.isLt
  have hb := b.isLt
  rw [BitVec.toNat_add, addrOfImm_toNat, zext16_toNat]
  omega

/-- Executing an instruction fetched from an address up to 4094 keeps `pc` bounded. -/
theorem exec_keeps_pc_bounded {i : Instr} {s t : State} (hs : s.AddressesBounded) (hle : (s.pc - 2).toNat ≤ 4094)
    (h : exec i s = .next t) : t.pc.toNat ≤ 0x10FE := by
  obtain ⟨-, hstk⟩ := hs
  cases exec_pc_cases h with
  | kept hpc => rw [hpc]; bv_omega
  | putBack _ hpc => rw [hpc]; omega
  | popped _ j hj hpc =>
    have := hstk j (by omega)
    rw [hpc]
    omega
  | loaded nnn _ hpc =>
    have := nnn.isLt
    rw [hpc, addrOfImm_toNat]
    omega
  | loadedSum nnn _ hpc =>
    have := nnn.isLt
    have := (s.reg 0).isLt
    rw [hpc, addrOfImm_add_zext16_toNat]
    omega
  | skipped hpc _ => rw [hpc]; bv_omega

/-- Executing an instruction fetched from an address up to 4094 keeps the live return addresses bounded. -/
theorem exec_keeps_stack_bounded {i : Instr} {s t : State} (hs : s.AddressesBounded) (hle : (s.pc - 2).toNat ≤ 4094)
    (h : exec i s = .next t) (j : Fin 16) (hj : j.val < t.sp.val) : t.stk[j].toNat ≤ 4096 := by
  obtain ⟨-, hstk⟩ := hs
  rcases exec_stack_cases h with ⟨hk, hsp⟩ | ⟨-, hk, hsp⟩ | ⟨nnn, -, hlt, hk, hsp⟩
  · rw [hk]
    exact hstk j (hsp ▸ hj)
  · rw [hk]
    exact hstk j (by omega)
  · by_cases htop : s.sp.val = j.val
    · have : t.stk[j] = s.pc := by simp [hk, htop]
      rw [this]
      bv_omega
    · have : t.stk[j] = s.stk[j] := by simp [hk, htop]
      rw [this]
      exact hstk j (by omega)

/-- An event of the host keeps the addresses bounded. -/
theorem deliver_keeps_addressesBounded {s t : State} {e : HostEvent} (hs : s.AddressesBounded)
    (h : s.deliver e = .next t) : t.AddressesBounded := by
  rcases State.deliver_cases h with ⟨-, rfl⟩ | ⟨bytes, -, -, rfl⟩ | ⟨-, rfl⟩ | ⟨k, -, rfl⟩
  · exact ⟨(by decide : (0x200#16).toNat ≤ 0x10FE), nofun⟩
  · rcases s.onLoad_cases bytes with ⟨-, he⟩ | ⟨-, he⟩ <;> rw [he] <;> exact hs
  · rcases s.onTimerTick_cases with ⟨-, he⟩ | ⟨-, he⟩ <;> rw [he] <;> exact hs
  · rcases s.onKeyPress_cases k with ⟨-, he⟩ | ⟨-, -, he⟩ <;> rw [he] <;> exact hs

/-- Settles O59: an instruction runs only from a `pc` up to 4094, and from there no way of changing `pc` leaves the bound. -/
theorem stepKeepsAddressesBounded : Obligations.StepKeepsAddressesBounded := by
  intro s t hs h
  rcases step_cases h with ⟨e, rest, -, he⟩ | ⟨-, -, -, rfl⟩ | ⟨-, -, rfl⟩ | ⟨-, -, -, rfl⟩ | ⟨w, i, u, hfetch, hx, rfl⟩
  · exact deliver_keeps_addressesBounded (s := s.withInbox rest) hs he
  · exact hs
  · exact hs
  · exact hs
  · obtain ⟨-, hpc, -, -⟩ := hfetch
    have hback : ((s.sampled.advance w).pc - 2).toNat ≤ 4094 := by simpa using hpc
    have hadv : (s.sampled.advance w).AddressesBounded := ⟨by simp; bv_omega, hs.2⟩
    exact ⟨exec_keeps_pc_bounded (t := u) hadv hback hx, exec_keeps_stack_bounded (t := u) hadv hback hx⟩

/-! ### The fault record -/

/-- A core that is not halted has a true record. -/
theorem State.faultRecordTrue_of_no_fault {s : State} (h : s.fault.kind = .none) : s.FaultRecordTrue :=
  fun hh => absurd h (s.halted_iff.mp hh)

/-- Halted by an instruction just executed: the cause stands in the state put back. -/
theorem causeStands_of_raises {s : State} {w : Word} {i : Instr} {k : FaultKind} (hfetch : s.Fetches w i)
    (hraises : Raises i (s.sampled.advance w) k) : ((s.sampled.advance w).raised k).endTick.CauseStands := by
  obtain ⟨-, hpc, hw, hd⟩ := hfetch
  obtain ⟨hpc', hw'⟩ : ((s.sampled.advance w).raised k).endTick.pc.toNat ≤ 4094 ∧
      Memory.readWord ((s.sampled.advance w).raised k).endTick.mem ((s.sampled.advance w).raised k).endTick.pc.toNat = w := by
    simp [State.raised, hpc, hw]
  cases k with
  | none => exact hraises.elim
  | invalidInstruction => exact hraises.elim
  | stackOverflow =>
    obtain ⟨hsp, nnn, rfl⟩ := hraises
    exact ⟨hpc', hw', hsp, nnn, hd⟩
  | stackUnderflow =>
    obtain ⟨hsp, rfl⟩ := hraises
    exact ⟨hpc', hw', hsp, hd⟩
  | outOfBounds =>
    refine .inr ⟨hpc', hw', (s.sampled.advance w).dataFaultAddr_toNat, ?_⟩
    rcases hraises with ⟨x, y, n, rfl, h0, h⟩ | ⟨x, rfl, h⟩ | ⟨x, rfl | rfl, h⟩
    · exact ⟨x, y, n, .inl ⟨hd, h0, h⟩⟩
    · exact ⟨x, 0, 0, .inr (.inl ⟨hd, h⟩)⟩
    · exact ⟨x, 0, 0, .inr (.inr (.inl ⟨hd, h⟩))⟩
    · exact ⟨x, 0, 0, .inr (.inr (.inr ⟨hd, h⟩))⟩

/-- An event of the host keeps the record true: it leaves a halted core alone, or resets it. -/
theorem deliver_keeps_faultRecordTrue {s t : State} {e : HostEvent} (hs : s.FaultRecordTrue)
    (h : s.deliver e = .next t) : t.FaultRecordTrue := by
  rcases State.deliver_cases h with ⟨-, rfl⟩ | ⟨bytes, -, hstart, rfl⟩ | ⟨-, rfl⟩ | ⟨k, -, rfl⟩
  · exact State.faultRecordTrue_of_no_fault rfl
  · have hk : s.fault.kind = .none := by
      by_contra hk
      obtain ⟨-, hstarted, -⟩ := hs (s.halted_iff.mpr hk)
      rw [hstart] at hstarted
      cases hstarted
    rcases s.onLoad_cases bytes with ⟨-, he⟩ | ⟨-, he⟩ <;> rw [he] <;> exact State.faultRecordTrue_of_no_fault hk
  · rcases s.onTimerTick_cases with ⟨-, he⟩ | ⟨hk, he⟩ <;> rw [he]
    · exact hs
    · exact State.faultRecordTrue_of_no_fault hk
  · rcases s.onKeyPress_cases k with ⟨-, he⟩ | ⟨hk, -, he⟩ <;> rw [he]
    · exact hs
    · exact State.faultRecordTrue_of_no_fault hk

/-- Settles O60: only a tick that fetches records a fault, and it leaves the state as it found it. -/
theorem stepKeepsFaultRecordTrue : Obligations.StepKeepsFaultRecordTrue := by
  intro s t hs h
  rcases step_cases h with ⟨e, rest, -, he⟩ | ⟨-, hk, -, rfl⟩ | ⟨⟨-, -, hwait⟩, hpc, rfl⟩ | ⟨⟨-, -, hwait⟩, hpc, hd, rfl⟩ |
    ⟨w, i, u, hfetch, hx, rfl⟩
  · exact deliver_keeps_faultRecordTrue (s := s.withInbox rest) hs he
  · exact State.faultRecordTrue_of_no_fault hk
  · exact fun _ => ⟨hwait, rfl, rfl, .inl ⟨hpc, rfl⟩⟩
  · exact fun _ => ⟨hwait, rfl, rfl, hpc, rfl, hd⟩
  · have ⟨⟨_, hk, hwait⟩, _⟩ := hfetch
    rcases exec_fault_cases hx with hf | ⟨k, hraises, rfl⟩
    · refine State.faultRecordTrue_of_no_fault (s := u.endTick) ?_
      rw [State.endTick_fault, hf]
      exact hk
    · exact fun _ => ⟨hwait, rfl, rfl, causeStands_of_raises hfetch hraises⟩

/-- Settles O57: memory is empty, the stack too, and no fault is recorded. -/
theorem resetMeetsInvariants : Obligations.ResetMeetsInvariants :=
  ⟨⟨.nil, nofun⟩, ⟨by decide, nofun⟩, State.faultRecordTrue_of_no_fault rfl⟩

end Sys2Proof.Machine

/-! Proofs for what each instruction does: the jumps, call, return and skips (41_control_flow.md), arithmetic, shifts and
random (42_load_alu.md), index and memory (43_index_memory.md), timers and keys (45_timers_keys.md). -/

namespace Sys2Proof.Machine

/-! ### Control transfer -/

/-- 1nnn writes the target to `pc`. -/
theorem exec_jp (nnn : Imm12) (s : State) : exec (.jp nnn) s = .next (s.setPc (addrOfImm nnn)) := rfl

/-- Bnnn writes the sum with `V[0]` to `pc`. -/
theorem exec_jpV0 (nnn : Imm12) (s : State) :
    exec (.jpV0 nnn) s = .next (s.setPc (addrOfImm nnn + zext16 (s.reg 0))) := rfl

/-- 2nnn with room on the stack pushes `pc` and jumps. -/
theorem exec_call_of_lt (nnn : Imm12) {s : State} (h : s.sp.val < 16) : exec (.call nnn) s =
    .next ((s.setStack (s.stk.set s.sp.val s.pc h) ⟨s.sp.val + 1, Nat.succ_lt_succ h⟩).setPc (addrOfImm nnn)) := by
  simp only [exec, execCall, s.push_of_lt _ h]

/-- 00EE with `n + 1` return addresses pops the newest into `pc`. -/
theorem exec_ret_of_succ {s : State} {n : Nat} (hn : n < 16) (h : s.sp.val = n + 1) :
    exec .ret s = .next ((s.setStack s.stk ⟨n, Nat.lt_succ_of_lt hn⟩).setPc s.stk[n]) := by
  simp only [exec, execRet, s.pop_of_succ n hn h]

/-- A write of stack and `pc` leaves every other part of the state alone. -/
theorem State.setStack_setPc_unchanged (s : State) (k : Vector Word 16) (n : Fin 17) (w : Word) :
    UnchangedExcept [.stack, .pc] s ((s.setStack k n).setPc w) :=
  (s.setStack_unchanged k n).trans ((s.setStack k n).setPc_unchanged w)

/-- Settles O14: the instruction is one write of `pc`. -/
theorem jumpLoadsTarget : Obligations.JumpLoadsTarget :=
  fun nnn s => ⟨decode_one_nnn nnn, _, exec_jp nnn s, addrOfImm_toNat nnn, s.setPc_unchanged _⟩

/-- Settles O15: the instruction is one write of `pc`, and the sum does not wrap. -/
theorem jumpV0AddsRegisterZero : Obligations.JumpV0AddsRegisterZero :=
  fun nnn s => ⟨decode_B_nnn nnn, _, exec_jpV0 nnn s, addrOfImm_add_zext16_toNat nnn (s.reg 0), s.setPc_unchanged _⟩

/-- Settles O16: with room the call is one write of stack and `pc`, else it raises. -/
theorem callPushesReturnAddress : Obligations.CallPushesReturnAddress := by
  refine fun nnn s => ⟨decode_two_nnn nnn, fun h => ⟨_, exec_call_of_lt nnn h, rfl, fun j => ?_, addrOfImm_toNat nnn,
    s.setStack_setPc_unchanged _ _ _⟩, fun h => exec_raisedHere ⟨h, nnn, rfl⟩⟩
  simp [Vector.getElem_set, eq_comm (a := s.sp.val)]

/-- Settles O17: with an entry to pop the return is one write of `SP` and `pc`, else it raises. -/
theorem returnPopsIntoPc : Obligations.ReturnPopsIntoPc :=
  fun s => ⟨decode_00EE, fun j h => ⟨_, exec_ret_of_succ j.isLt h, rfl, rfl, fun _ => rfl,
    s.setStack_setPc_unchanged _ _ _⟩, fun h => exec_raisedHere ⟨h, rfl⟩⟩

/-- Settles O18: the return pops the entry the call has pushed, so that `pc` is written with what it held. -/
theorem callThenReturnComesBack : Obligations.CallThenReturnComesBack := by
  intro nnn s elsewhere h
  have hpc : (s.stk.set s.sp.val s.pc h)[s.sp.val] = s.pc := Vector.getElem_set_self h
  refine ⟨_, _, exec_call_of_lt nnn h, exec_ret_of_succ h rfl, hpc, rfl, ?_⟩
  exact ((((s.setStack_setPc_unchanged _ _ _).trans (State.setPc_unchanged _ elsewhere)).trans
    (State.setStack_setPc_unchanged _ _ _ _)).mono (m := [.pc, .stack]) (by simp)).of_same hpc

/-! ### Skips -/

/-- 3xkk is a skip on equality with the immediate. -/
theorem exec_seVxKk (x : Nibble) (kk : Byte) (s : State) :
    exec (.seVxKk x kk) s = .next (s.skipIf (s.reg x == kk)) := rfl

/-- 4xkk is a skip on difference from the immediate. -/
theorem exec_sneVxKk (x : Nibble) (kk : Byte) (s : State) :
    exec (.sneVxKk x kk) s = .next (s.skipIf (s.reg x != kk)) := rfl

/-- Ex9E is a skip on a held key. -/
theorem exec_skp (x : Nibble) (s : State) :
    exec (.skp x) s = .next (s.skipIf (pressed s.env.keys (s.reg x))) := rfl

/-- ExA1 is a skip on a key that is not held. -/
theorem exec_sknp (x : Nibble) (s : State) :
    exec (.sknp x) s = .next (s.skipIf (!pressed s.env.keys (s.reg x))) := rfl

/-- A key is held when its number is at most 15 and its level is 1 (45_timers_keys.md R245, D9). -/
theorem pressed_iff (keys : BitVec 16) (v : Byte) :
    pressed keys v = true ↔ v.toNat ≤ 15 ∧ keys.getLsbD v.toNat = true := by
  simp [pressed, Config.numKeys, Nat.lt_succ_iff]

/-- Settles O19: both instructions are a skip on a comparison with the immediate. -/
theorem skipsOnImmediate : Obligations.SkipsOnImmediate := by
  refine fun x kk s => ⟨decode_three_xkk x kk, decode_four_xkk x kk, ⟨_, exec_seVxKk x kk s, ?_⟩,
    ⟨_, exec_sneVxKk x kk s, ?_⟩⟩
  · simpa using s.skipIf_spec (s.reg x == kk)
  · simpa using s.skipIf_spec (s.reg x != kk)

/-- Settles O21: both instructions are a skip on the level of a key. -/
theorem skipsOnKeys : Obligations.SkipsOnKeys := by
  refine fun x s => ⟨decode_E_xkk x 0x9E, decode_E_xkk x 0xA1, ⟨_, exec_skp x s, ?_⟩, ⟨_, exec_sknp x s, ?_⟩⟩
  · simpa only [pressed_iff] using s.skipIf_spec (pressed s.env.keys (s.reg x))
  · simpa only [Bool.not_eq_true', ← Bool.not_eq_true, ite_not, pressed_iff] using
      s.skipIf_spec (!pressed s.env.keys (s.reg x))

/-! ### A result and a flag -/

/-- 8xy4 writes the sum, then the carry. -/
theorem exec_addVxVy (x y : Nibble) (s : State) : exec (.addVxVy x y) s =
    .next ((s.setReg x (s.reg x + s.reg y)).setFlag (carryOut (s.reg x) (s.reg y))) := rfl

/-- 8xy5 writes the no-borrow flag, then the difference. -/
theorem exec_sub (x y : Nibble) (s : State) : exec (.sub x y) s =
    .next (s.flagThenReg x (noBorrow (s.reg x) (s.reg y)) (s.reg x - s.reg y)) := rfl

/-- 8xy6 writes the bit shifted out, then the value halved. -/
theorem exec_shr (x y : Nibble) (s : State) : exec (.shr x y) s =
    .next (s.flagThenReg x (lowBit (s.reg x)) (s.reg x >>> 1)) := rfl

/-- 8xy7 writes the no-borrow flag, then the difference the other way. -/
theorem exec_subn (x y : Nibble) (s : State) : exec (.subn x y) s =
    .next (s.flagThenReg x (noBorrow (s.reg y) (s.reg x)) (s.reg y - s.reg x)) := rfl

/-- 8xyE writes the bit shifted out, then the value doubled. -/
theorem exec_shl (x y : Nibble) (s : State) : exec (.shl x y) s =
    .next (s.flagThenReg x (highBit (s.reg x)) (s.reg x <<< 1)) := rfl

/-- The two writes seen through a register read: the result last. -/
@[simp] theorem State.flagThenReg_reg (s : State) (x q : Nibble) (c : Bool) (b : Byte) :
    (s.flagThenReg x c b).reg q = if q = x then b else if q = 0xF then flagByte c else s.reg q := by
  simp [State.flagThenReg]

/-- A result and a flag for a destination other than the flag register: both are seen, whichever is written last. -/
theorem exec_spec_of_setReg_setFlag {i : Instr} {s : State} {x : Nibble} {b : Byte} {c : Bool} (hx : x ≠ 0xF)
    (h : exec i s = .next ((s.setReg x b).setFlag c)) :
    ∃ t : State, exec i s = .next t ∧ t.reg x = b ∧ t.reg 0xF = flagByte c ∧
      RegsExcept [x, 0xF] s t ∧ UnchangedExcept [.regs] s t :=
  ⟨_, h, by simpa using fun e => absurd e hx, by simp, fun r hr => by simp_all, s.setReg_setReg_unchanged x 0xF b _⟩

/-- A flag and a result for a destination other than the flag register. -/
theorem exec_spec_of_flagThenReg {i : Instr} {s : State} {x : Nibble} {b : Byte} {c : Bool} (hx : x ≠ 0xF)
    (h : exec i s = .next (s.flagThenReg x c b)) :
    ∃ t : State, exec i s = .next t ∧ t.reg x = b ∧ t.reg 0xF = flagByte c ∧
      RegsExcept [x, 0xF] s t ∧ UnchangedExcept [.regs] s t :=
  ⟨_, h, by simp, by simpa using fun e => absurd e.symm hx, fun r hr => by simp_all, s.setReg_setReg_unchanged 0xF x _ b⟩

/-- A flag and a result that both go to the flag register: the result is seen. -/
theorem exec_spec_of_flagThenReg_flag {i : Instr} {s : State} {b : Byte} {c : Bool}
    (h : exec i s = .next (s.flagThenReg 0xF c b)) :
    ∃ t : State, exec i s = .next t ∧ t.reg 0xF = b ∧ RegsExcept [0xF] s t ∧ UnchangedExcept [.regs] s t :=
  ⟨_, h, by simp, fun r hr => by simp_all, s.setReg_setReg_unchanged 0xF 0xF _ b⟩

/-- The carry, as a byte. -/
theorem flagByte_carryOut (a b : Byte) : flagByte (carryOut a b) = if a.toNat + b.toNat > 255 then 1 else 0 := by
  simp [flagByte, carryOut]

/-- The no-borrow flag, as a byte. -/
theorem flagByte_noBorrow (a b : Byte) : flagByte (noBorrow a b) = if a.toNat ≥ b.toNat then 1 else 0 := by
  simp [flagByte, noBorrow]

/-- A difference modulo 256, without and with a borrow. -/
theorem toNat_sub_byte (a b : Byte) :
    (a - b).toNat = if a.toNat ≥ b.toNat then a.toNat - b.toNat else a.toNat + 256 - b.toNat := by
  have ha := a.isLt
  have hb := b.isLt
  rw [BitVec.toNat_sub]
  split <;> omega

/-- The bit shifted out to the right is the remainder. -/
theorem flagByte_lowBit_toNat (a : Byte) : (flagByte (lowBit a)).toNat = a.toNat % 2 := by
  revert a
  decide

/-- The bit shifted out to the left is the quotient by 128. -/
theorem flagByte_highBit_toNat (a : Byte) : (flagByte (highBit a)).toNat = a.toNat / 128 := by
  revert a
  decide

/-- A byte halved. -/
theorem toNat_ushiftRight_one_byte (a : Byte) : (a >>> 1).toNat = a.toNat / 2 := by
  rw [BitVec.toNat_ushiftRight, Nat.shiftRight_one]

/-- A byte doubled. -/
theorem toNat_shiftLeft_one_byte (a : Byte) : (a <<< 1).toNat = a.toNat * 2 % 256 := by
  rw [BitVec.toNat_shiftLeft, Nat.shiftLeft_eq, pow_one]

/-- Settles O25: result and flag are two registers, and each is the exact arithmetic. -/
theorem arithmeticWritesResultAndFlag : Obligations.ArithmeticWritesResultAndFlag := by
  intro x y s hx
  refine ⟨?_, ?_, ?_, ?_, ?_⟩
  · obtain ⟨t, h, hres, hflag, hframe⟩ := exec_spec_of_setReg_setFlag hx (exec_addVxVy x y s)
    exact ⟨t, h, by rw [hres, BitVec.toNat_add], by rw [hflag, flagByte_carryOut], hframe⟩
  · obtain ⟨t, h, hres, hflag, hframe⟩ := exec_spec_of_flagThenReg hx (exec_sub x y s)
    exact ⟨t, h, by rw [hres, toNat_sub_byte], by rw [hflag, flagByte_noBorrow], hframe⟩
  · obtain ⟨t, h, hres, hflag, hframe⟩ := exec_spec_of_flagThenReg hx (exec_subn x y s)
    exact ⟨t, h, by rw [hres, toNat_sub_byte], by rw [hflag, flagByte_noBorrow], hframe⟩
  · obtain ⟨t, h, hres, hflag, hframe⟩ := exec_spec_of_flagThenReg hx (exec_shr x y s)
    exact ⟨t, h, by rw [hres, toNat_ushiftRight_one_byte], by rw [hflag, flagByte_lowBit_toNat], hframe⟩
  · obtain ⟨t, h, hres, hflag, hframe⟩ := exec_spec_of_flagThenReg hx (exec_shl x y s)
    exact ⟨t, h, by rw [hres, toNat_shiftLeft_one_byte], by rw [hflag, flagByte_highBit_toNat], hframe⟩

/-- A difference modulo 256, as one remainder. -/
theorem toNat_sub_byte_mod (a b : Byte) : (a - b).toNat = (a.toNat + 256 - b.toNat) % 256 := by
  have ha := a.isLt
  have hb := b.isLt
  rw [BitVec.toNat_sub]
  omega

/-- Settles O26: 8xy4 writes the flag last, the other four the result. -/
theorem flagRegisterAsDestination : Obligations.FlagRegisterAsDestination := by
  intro y s
  refine ⟨?_, ?_, ?_, ?_, ?_⟩
  · refine ⟨_, exec_addVxVy 0xF y s, ?_, fun r hr => by simp_all, s.setReg_setReg_unchanged 0xF 0xF _ _⟩
    rw [← flagByte_carryOut]
    simp
  · obtain ⟨t, h, hres, hframe⟩ := exec_spec_of_flagThenReg_flag (exec_sub 0xF y s)
    exact ⟨t, h, by rw [hres, toNat_sub_byte_mod], hframe⟩
  · obtain ⟨t, h, hres, hframe⟩ := exec_spec_of_flagThenReg_flag (exec_subn 0xF y s)
    exact ⟨t, h, by rw [hres, toNat_sub_byte_mod], hframe⟩
  · obtain ⟨t, h, hres, hframe⟩ := exec_spec_of_flagThenReg_flag (exec_shr 0xF y s)
    exact ⟨t, h, by rw [hres, toNat_ushiftRight_one_byte], hframe⟩
  · obtain ⟨t, h, hres, hframe⟩ := exec_spec_of_flagThenReg_flag (exec_shl 0xF y s)
    exact ⟨t, h, by rw [hres, toNat_shiftLeft_one_byte], hframe⟩

/-- Settles O27: the decoder of the low nibble takes any `y`, and the two shifts do not read it. -/
theorem shiftsIgnoreSecondRegister : Obligations.ShiftsIgnoreSecondRegister := by
  intro x y z s
  simp only [decode_eight_xyn]
  exact ⟨rfl, rfl, rfl, rfl, rfl, rfl, rfl⟩

/-! ### Random, timers, the wait -/

/-- Cxkk writes the random input, masked. -/
theorem exec_rnd (x : Nibble) (kk : Byte) (s : State) :
    exec (.rnd x kk) s = .next (s.setReg x (s.env.rnd &&& kk)) := rfl

/-- Fx07 writes the delay timer to the register. -/
theorem exec_ldVxDt (x : Nibble) (s : State) : exec (.ldVxDt x) s = .next (s.setReg x s.dt) := rfl

/-- Fx15 writes the register to the delay timer. -/
theorem exec_ldDtVx (x : Nibble) (s : State) : exec (.ldDtVx x) s = .next (s.setDt (s.reg x)) := rfl

/-- Fx18 writes the register to the sound timer. -/
theorem exec_ldStVx (x : Nibble) (s : State) : exec (.ldStVx x) s = .next (s.setSt (s.reg x)) := rfl

/-- Fx0A enters the wait. -/
theorem exec_ldVxK (x : Nibble) (s : State) : exec (.ldVxK x) s = .next (s.enterWait x) := rfl

/-- Settles O28: the instruction is one register write. -/
theorem randomByteIsMasked : Obligations.RandomByteIsMasked :=
  fun x kk s => ⟨decode_C_xkk x kk, exec_spec_of_setReg (exec_rnd x kk s)⟩

/-- The sound output is the level of `ST` (60_exceptions.md R278). -/
theorem State.soundOn_iff (s : State) : s.soundOn = true ↔ s.st ≠ 0 := bne_iff_ne

/-- Settles O40: each instruction is one write. -/
theorem timerInstructions : Obligations.TimerInstructions :=
  fun x s => ⟨decode_F_xkk x 0x07, decode_F_xkk x 0x15, decode_F_xkk x 0x18, exec_spec_of_setReg (exec_ldVxDt x s),
    ⟨_, exec_ldDtVx x s, rfl, s.setDt_unchanged _⟩, ⟨_, exec_ldStVx x s, rfl, State.soundOn_iff _, s.setSt_unchanged _⟩⟩

/-- Settles O41: the instruction is one write of the wait. -/
theorem waitForKeySuspends : Obligations.WaitForKeySuspends :=
  fun x s => ⟨decode_F_xkk x 0x0A, _, exec_ldVxK x s, rfl, rfl, s.enterWait_unchanged x⟩

/-! ### Index and memory -/

/-- Fx1E adds the register to `I`. -/
theorem exec_addIVx (x : Nibble) (s : State) : exec (.addIVx x) s = .next (s.setI (s.i + zext16 (s.reg x))) := rfl

/-- Settles O30: the instruction is one write of `I`, and words add modulo 65536. -/
theorem addToIndexWraps : Obligations.AddToIndexWraps := by
  intro x s
  refine ⟨decode_F_xkk x 0x1E, ?_⟩
  simpa [BitVec.toNat_add] using exec_spec_of_setI (exec_addIVx x s)

/-- Fx33 in bounds stores the three digits. -/
theorem exec_ldBVx_of_inBounds {s : State} (x : Nibble) (h : s.i.toNat + 2 ≤ 4095) :
    exec (.ldBVx x) s = .next (s.setMem (Memory.writeList s.mem (s.ea 0) (digits (s.reg x)))) :=
  State.access_of_inBounds _ (.inr (by omega))

/-- Fx55 in bounds stores the registers. -/
theorem exec_ldMemVx_of_inBounds {s : State} (x : Nibble) (h : s.i.toNat + x.toNat ≤ 4095) :
    exec (.ldMemVx x) s = .next (s.setMem (Memory.writeList s.mem (s.ea 0) (s.regsUpTo x))) :=
  State.access_of_inBounds _ (.inr (by unfold regCount; omega))

/-- Fx65 in bounds loads the registers. -/
theorem exec_ldVxMem_of_inBounds {s : State} (x : Nibble) (h : s.i.toNat + x.toNat ≤ 4095) :
    exec (.ldVxMem x) s = .next (s.loadRegs x) :=
  State.access_of_inBounds _ (.inr (by unfold regCount; omega))

/-- A stored row of bytes, read inside the row. -/
theorem Memory.read_writeList_of_lt (m : Memory) (a j : Nat) (bs : List Byte) (h : j < bs.length) :
    Memory.read (Memory.writeList m a bs) (a + j) = bs[j] := by
  rw [Memory.read_writeList, dif_pos (by omega)]
  congr 1
  omega

/-- A stored row of bytes leaves the bytes outside the row alone. -/
theorem State.memExcept_writeList (s : State) (a : Nat) (bs : List Byte) :
    MemExcept a bs.length s (s.setMem (Memory.writeList s.mem a bs)) := by
  intro b hb
  rw [State.setMem_mem, Memory.read_writeList, dif_neg hb]

/-- The registers that Fx55 stores are as many as it says. -/
@[simp] theorem State.regsUpTo_length (s : State) (x : Nibble) : (s.regsUpTo x).length = x.toNat + 1 := by
  have := x.isLt
  simp only [State.regsUpTo, regCount, List.length_take, Vector.length_toList]
  omega

/-- The `j`-th stored register is `V[j]`. -/
@[simp] theorem State.regsUpTo_getElem (s : State) (x j : Nibble) (h : j.toNat < (s.regsUpTo x).length) :
    (s.regsUpTo x)[j.toNat] = s.reg j := by
  simp [State.regsUpTo, State.reg]

/-- Fx55 seen through a read of memory. -/
theorem State.read_writeList_regsUpTo (s : State) (x j : Nibble) (h : j.toNat ≤ x.toNat) :
    Memory.read (Memory.writeList s.mem (s.ea 0) (s.regsUpTo x)) (s.ea j.toNat) = s.reg j := by
  have hlen : j.toNat < (s.regsUpTo x).length := by rw [s.regsUpTo_length]; omega
  rw [← s.regsUpTo_getElem x j hlen]
  exact Memory.read_writeList_of_lt s.mem (s.ea 0) j.toNat _ hlen

/-- Fx33 seen through a read of memory. -/
theorem State.read_writeList_digits (s : State) (d : Byte) (j : Nat) (h : j < (digits d).length) :
    Memory.read (Memory.writeList s.mem (s.ea 0) (digits d)) (s.ea j) = (digits d)[j] :=
  Memory.read_writeList_of_lt s.mem (s.ea 0) j _ h

/-- Settles O31: in bounds the instruction is one write of three bytes, and no digit is cut to a byte. -/
theorem bcdStoresThreeDigits : Obligations.BcdStoresThreeDigits := by
  refine fun x s => ⟨decode_F_xkk x 0x33, fun h => ⟨_, exec_ldBVx_of_inBounds x h, ?_, ?_, ?_,
    s.memExcept_writeList _ (digits (s.reg x)), s.setMem_unchanged _⟩⟩
  all_goals
    have hd := (s.reg x).isLt
    rw [State.setMem_mem, s.read_writeList_digits _ _ (by simp [digits])]
    simp only [digits, List.getElem_cons_zero, List.getElem_cons_succ, BitVec.toNat_ofNat]
    omega

/-- Settles O32: in bounds the instruction is one write of the registers. -/
theorem storeRegistersToMemory : Obligations.StoreRegistersToMemory := by
  refine fun x s => ⟨decode_F_xkk x 0x55, fun h => ⟨_, exec_ldMemVx_of_inBounds x h, s.read_writeList_regsUpTo x, ?_,
    s.setMem_unchanged _⟩⟩
  simpa using s.memExcept_writeList (s.ea 0) (s.regsUpTo x)

/-- Settles O33: in bounds the instruction is one load of the registers. -/
theorem loadRegistersFromMemory : Obligations.LoadRegistersFromMemory :=
  fun x s => ⟨decode_F_xkk x 0x65, fun h => ⟨_, exec_ldVxMem_of_inBounds x h, s.loadRegs_reg x, s.loadRegs_unchanged x⟩⟩

/-- A fetch from a `pc` up to 4094 answers the word there. -/
theorem State.fetch_of_le {s : State} (h : s.pc.toNat ≤ 4094) : s.fetch = some (Memory.readWord s.mem s.pc.toNat) := by
  rcases s.fetch_cases with ⟨-, hf⟩ | ⟨hpc, -⟩
  · exact hf
  · omega

/-- Settles O35: the two bytes that the fetch reads are the first two stored. -/
theorem storedWordIsFetched : Obligations.StoredWordIsFetched := by
  intro x s h hx
  refine ⟨_, exec_ldMemVx_of_inBounds x h, ?_⟩
  have hhi := s.read_writeList_regsUpTo x 0 (by simp)
  have hlo := s.read_writeList_regsUpTo x 1 (by simpa using hx)
  rw [State.fetch_of_le (by rw [State.setPc_pc]; omega)]
  exact congrArg some (congrArg₂ wordOfBytes hhi hlo)

end Sys2Proof.Machine

/-! Proofs for the whole-machine rules of an instruction: what it can write, and which inputs it reads (10_state.md R24 to
R43, 20_memory.md R62, R68, 60_exceptions.md R281, R284). -/

namespace Sys2Proof.Machine

/-! ### Every instruction answers -/

/-- A data access answers a next state. -/
theorem State.access_answers_next (s : State) (n : Nat) (t : State) : ∃ u : State, s.access n t = .next u := by
  rcases s.access_cases n t with ⟨-, he⟩ | ⟨-, he⟩ <;> exact ⟨_, he⟩

/-- An instruction answers a next state. -/
theorem exec_answers_next (i : Instr) (s : State) : ∃ t : State, exec i s = .next t := by
  cases i
  case call nnn => rcases execCall_cases nnn s with ⟨_, he⟩ | ⟨-, he⟩ <;> exact ⟨_, he⟩
  case ret => rcases execRet_cases s with ⟨n, hn, -, he⟩ | ⟨-, he⟩ <;> exact ⟨_, he⟩
  case drw x y n => exact s.access_answers_next _ _
  case ldBVx x => exact s.access_answers_next _ _
  case ldMemVx x => exact s.access_answers_next _ _
  case ldVxMem x => exact s.access_answers_next _ _
  all_goals exact ⟨_, rfl⟩

/-- An instruction leaves the model's own fields and `IR` alone. -/
theorem exec_keeps_env_ir {i : Instr} {s t : State} (h : exec i s = .next t) : t.env = s.env ∧ t.ir = s.ir := by
  cases exec_cases h
  case flag hi ht => rcases ht with rfl | rfl <;> exact ⟨rfl, rfl⟩
  all_goals subst t; exact ⟨rfl, rfl⟩

/-- Settles O12: each case of `exec` answers, and none writes the two fields. -/
theorem everyInstructionAnswersNext : Obligations.EveryInstructionAnswersNext := by
  intro i s
  obtain ⟨t, h⟩ := exec_answers_next i s
  exact ⟨t, h, exec_keeps_env_ir h⟩

/-! ### The writers of each part -/

/-- Settles O51: a write of one register changes `V[0xF]` only when that register is F. -/
theorem flagRegisterWriters : Obligations.FlagRegisterWriters := by
  intro i s t h hchanged
  cases exec_cases h
  case reg x b hi ht =>
    have hx : x = 0xF := by
      by_contra hx
      exact hchanged (by rw [ht, State.setReg_reg, if_neg (Ne.symm hx)])
    subst hx
    rcases hi with hi | hi | hi
    · exact .inr (.inr (.inl hi))
    · exact .inr (.inr (.inr (.inl hi)))
    · exact .inr (.inr (.inr (.inr (.inl hi))))
  case load x hin hi ht =>
    have hx : x = 0xF := by
      by_contra hx
      have hlt : ¬ (0xF : Nibble).toNat ≤ x.toNat := by bv_omega
      exact hchanged (by rw [ht, State.loadRegs_reg, if_neg hlt])
    subst hx
    exact .inr (.inr (.inr (.inr (.inr hi))))
  case flag x y c b hi ht => exact .inl ⟨x, y, hi⟩
  case draw x y n r hin hi ht => exact .inr (.inl ⟨x, y, n, hi⟩)
  all_goals subst t; exact absurd rfl hchanged

/-- Settles O52: memory is the memory before, or that with one row of bytes stored below 4096. -/
theorem memoryWriters : Obligations.MemoryWriters := by
  intro i s t a h hchanged
  rcases exec_mem_cases h with hm | ⟨bytes, hin, hm, x, hx⟩
  · exact absurd (by rw [hm]) hchanged
  · have hrow : s.i.toNat ≤ a ∧ a < s.i.toNat + bytes.length := by
      by_contra hrow
      exact hchanged (by rw [hm, Memory.read_writeList, dif_neg hrow])
    exact ⟨hrow.1, by omega, x, hx.imp (fun ⟨hi, hlen⟩ => ⟨hi, by omega⟩) (fun ⟨hi, hlen⟩ => ⟨hi, by omega⟩)⟩

/-- Settles O53: from what an instruction does to the stack. -/
theorem stackWriters : Obligations.StackWriters := by
  intro i s t h
  rcases exec_stack_cases h with ⟨hk, hsp⟩ | ⟨hi, hk, -⟩ | ⟨nnn, hi, hlt, hk, -⟩
  · exact ⟨fun hne => absurd hsp hne, fun j hne => absurd (by rw [hk]) hne⟩
  · exact ⟨fun _ => .inl hi, fun j hne => absurd (by rw [hk]) hne⟩
  · refine ⟨fun _ => .inr ⟨nnn, hi⟩, fun j hne => ⟨?_, nnn, hi⟩⟩
    by_contra hj
    exact hne (by simp [hk, Ne.symm hj])

/-- Settles O54: from what an instruction does to `pc`. -/
theorem programCounterWriters : Obligations.ProgramCounterWriters := by
  intro i s t _ h hchanged
  cases exec_pc_cases h with
  | kept hpc => exact absurd hpc hchanged
  | putBack hk _ => exact .inl hk
  | popped hi => exact .inr (.inl hi)
  | loaded nnn hi _ => exact .inr (.inr (.inl ⟨nnn, hi.imp_right .inl⟩))
  | loadedSum nnn hi _ => exact .inr (.inr (.inl ⟨nnn, .inr (.inr hi)⟩))
  | skipped hpc hi => exact .inr (.inr (.inr ⟨hpc, hi⟩))

/-- Settles O55: five cases of `exec` write one of these parts, and every other case keeps them all. -/
theorem indexDisplayTimerAndWaitWriters : Obligations.IndexDisplayTimerAndWaitWriters := by
  intro i s t h
  cases exec_cases h
  case index w hi ht => subst ht; simpa using fun _ => hi
  case clear hi ht => subst ht hi; simp
  case draw x y n r hin hi ht => subst ht hi; simp
  case delay x hi ht => subst ht hi; simp
  case sound x hi ht => subst ht hi; simp
  case waitKey x hi ht => subst ht hi; simp
  case flag hi ht => rcases ht with rfl | rfl <;> simp
  all_goals subst t; simp

/-! ### The readers of the inputs -/

/-- The state with the model's own fields replaced. -/
def State.withEnv (s : State) (e : Env) : State := { s with env := e }

/-- A raise reads the tick counter alone of the model's own fields. -/
theorem State.withEnv_raised (s : State) {e : Env} (htick : e.tick = s.env.tick) (k : FaultKind) :
    (s.withEnv e).raised k = (s.raised k).withEnv e := by
  have haddr : (s.withEnv e).faultAddr k = s.faultAddr k := by cases k <;> rfl
  rw [State.raised, State.raised, haddr]
  simp only [State.raiseHere, State.raise, State.withEnv, htick]

/-- A skip reads none of the model's own fields but through its condition. -/
theorem State.withEnv_skipIf (s : State) (e : Env) (c : Bool) : (s.withEnv e).skipIf c = (s.skipIf c).withEnv e := by
  cases c <;> rfl

/-- A data access reads the tick counter alone of the model's own fields. -/
theorem State.access_withEnv {s t u : State} {e : Env} {n : Nat} (htick : e.tick = s.env.tick)
    (h : s.access n t = .next u) : (s.withEnv e).access n (t.withEnv e) = .next (u.withEnv e) := by
  rcases s.access_cases n t with ⟨hin, he⟩ | ⟨⟨h0, hout⟩, he⟩ <;> cases he.symm.trans h
  · exact State.access_of_inBounds (s := s.withEnv e) _ hin
  · rw [State.access_of_outOfBounds (s := s.withEnv e) _ h0 hout, s.withEnv_raised htick]
    rfl

/-- A call reads the tick counter alone of the model's own fields. -/
theorem exec_call_withEnv {nnn : Imm12} {s t : State} {e : Env} (htick : e.tick = s.env.tick)
    (h : exec (.call nnn) s = .next t) : exec (.call nnn) (s.withEnv e) = .next (t.withEnv e) := by
  rcases execCall_cases nnn s with ⟨hsp, he⟩ | ⟨hsp, he⟩ <;> cases he.symm.trans h
  · exact exec_call_of_lt (s := s.withEnv e) nnn hsp
  · rw [exec_of_raises (s := s.withEnv e) (k := .stackOverflow) ⟨hsp, nnn, rfl⟩, s.withEnv_raised htick]
    rfl

/-- A return reads the tick counter alone of the model's own fields. -/
theorem exec_ret_withEnv {s t : State} {e : Env} (htick : e.tick = s.env.tick)
    (h : exec .ret s = .next t) : exec .ret (s.withEnv e) = .next (t.withEnv e) := by
  rcases execRet_cases s with ⟨n, hn, hsp, he⟩ | ⟨hsp, he⟩ <;> cases he.symm.trans h
  · exact exec_ret_of_succ (s := s.withEnv e) hn hsp
  · rw [exec_of_raises (s := s.withEnv e) (k := .stackUnderflow) ⟨hsp, rfl⟩, s.withEnv_raised htick]
    rfl

/-- Other own fields lead to the same next state but for them, when the tick counter is the same and, for the instructions
that read an input, that input is too. -/
theorem exec_withEnv {i : Instr} {s t : State} {e : Env} (h : exec i s = .next t) (htick : e.tick = s.env.tick)
    (hrnd : ∀ (x : Nibble) (kk : Byte), i = .rnd x kk → e.rnd = s.env.rnd)
    (hkeys : ∀ x : Nibble, i = .skp x ∨ i = .sknp x → e.keys = s.env.keys) :
    exec i (s.withEnv e) = .next (t.withEnv e) := by
  cases i
  case call nnn => exact exec_call_withEnv htick h
  case ret => exact exec_ret_withEnv htick h
  case drw x y n => exact State.access_withEnv htick h
  case ldBVx x => exact State.access_withEnv htick h
  case ldMemVx x => exact State.access_withEnv htick h
  case ldVxMem x => exact State.access_withEnv htick h
  case rnd x kk =>
    cases h
    rw [exec_rnd, ← hrnd x kk rfl]
    rfl
  case skp x =>
    cases h
    rw [exec_skp, ← s.withEnv_skipIf, ← hkeys x (.inl rfl)]
    rfl
  case sknp x =>
    cases h
    rw [exec_sknp, ← s.withEnv_skipIf, ← hkeys x (.inr rfl)]
    rfl
  case seVxKk x kk => cases h; exact congrArg _ (s.withEnv_skipIf e _)
  case sneVxKk x kk => cases h; exact congrArg _ (s.withEnv_skipIf e _)
  case seVxVy x y => cases h; exact congrArg _ (s.withEnv_skipIf e _)
  case sneVxVy x y => cases h; exact congrArg _ (s.withEnv_skipIf e _)
  all_goals cases h; rfl

/-- Settles O56: another random input, and other key levels, are other own fields with the same tick counter. -/
theorem inputsReachOnlyTheirInstructions : Obligations.InputsReachOnlyTheirInstructions := by
  intro i s t h
  obtain ⟨henv, -⟩ := exec_keeps_env_ir h
  rw [henv]
  exact ⟨fun b hi => exec_withEnv h rfl (fun x kk he => absurd he (hi x kk)) (fun _ _ => rfl),
    fun ks hi => exec_withEnv h rfl (fun _ _ _ => rfl) (fun x he => absurd he (not_or.mpr (hi x)))⟩

end Sys2Proof.Machine

/-! Proofs for the instruction tick (40_fetch_decode_cycle.md), the events of the host (60_exceptions.md R275, R282), reset and
loading (70_reset_and_hazards.md). -/

namespace Sys2Proof.Machine

/-! ### A step, from what comes next -/

/-- With an event waiting, the step delivers it. -/
theorem step_of_event {s : State} {e : HostEvent} {rest : List HostEvent} (h : s.env.inbox = e :: rest) :
    step s = (s.withInbox rest).deliver e := by
  simp only [step, h]

/-- With no event waiting, a halted core stops the machine. -/
theorem step_of_report {s : State} {f : Fault} (hin : s.env.inbox = []) (h : s.fault.report = some f) :
    step s = .fault f := by
  simp only [step, hin, State.instrTick, h]

/-- With no event waiting, a waiting core ends the tick at once. -/
theorem step_of_waiting {s : State} (hin : s.env.inbox = []) (hk : s.fault.kind = .none) (hwait : s.wait = true) :
    step s = .next s.endTick := by
  simp only [step, hin, State.instrTick, (FaultRecord.report_eq_none _).mpr hk, hwait, if_true]

/-- A tick that fetches runs one instruction at the state with the inputs sampled. -/
theorem step_of_ready {s : State} (h : s.Ready) : step s = endOfTick s.sampled.runOne := by
  obtain ⟨hin, hk, hwait⟩ := h
  simp [step, hin, State.instrTick, (FaultRecord.report_eq_none _).mpr hk, hwait]

/-- A tick that fetches above 4094 raises. -/
theorem step_of_fetch_fault {s : State} (h : s.Ready) (hpc : 4094 < s.pc.toNat) :
    step s = .next (s.sampled.raise .outOfBounds s.pc none (some s.pc)).endTick := by
  rcases s.sampled.runOne_cases with ⟨-, he⟩ | ⟨hle, -⟩ | ⟨i, hle, -⟩
  · rw [step_of_ready h, he]
    rfl
  · exact absurd hle (Nat.not_le.mpr hpc)
  · exact absurd hle (Nat.not_le.mpr hpc)

/-- A tick that fetches an invalid word raises. -/
theorem step_of_invalid_word {s : State} (h : s.Ready) (hpc : s.pc.toNat ≤ 4094)
    (hd : decode (Memory.readWord s.mem s.pc.toNat) = none) : step s =
      .next (s.sampled.raise .invalidInstruction s.pc (some (Memory.readWord s.mem s.pc.toNat)) none).endTick := by
  rcases s.sampled.runOne_cases with ⟨hlt, -⟩ | ⟨-, -, he⟩ | ⟨i, -, hi, -⟩
  · exact absurd hlt (Nat.not_lt.mpr hpc)
  · rw [step_of_ready h, he]
    rfl
  · cases hd.symm.trans hi

/-- A tick that fetches an instruction executes it and ends the tick. -/
theorem step_of_fetches {s : State} {w : Word} {i : Instr} (h : s.Fetches w i) :
    step s = endOfTick (exec i (s.sampled.advance w)) := by
  obtain ⟨hready, hpc, rfl, hd⟩ := h
  rcases s.sampled.runOne_cases with ⟨hlt, -⟩ | ⟨-, hnone, -⟩ | ⟨j, -, hj, he⟩
  · exact absurd hlt (Nat.not_lt.mpr hpc)
  · cases hd.symm.trans hnone
  · cases hd.symm.trans hj
    rw [step_of_ready hready, he]
    rfl

/-! ### The instruction tick -/

/-- Sampling the inputs and advancing past the instruction write `pc`, `IR` and the model's own fields alone. -/
theorem State.sampled_advance_unchanged (s : State) (w : Word) :
    UnchangedExcept [.pc, .ir, .env] s (s.sampled.advance w) :=
  (s.sampled_unchanged.trans (s.sampled.advance_unchanged w)).mono (by simp)

/-- A tick that raises with `pc` kept writes the record, `IR` and the model's own fields alone. -/
theorem State.sampled_raise_endTick_unchanged (s : State) (k : FaultKind) (ir addr : Option Word) :
    UnchangedExcept [.fault, .ir, .env] s (s.sampled.raise k s.pc ir addr).endTick :=
  (((s.sampled_unchanged.trans (s.sampled.raise_unchanged k s.pc ir addr)).trans (State.endTick_unchanged _)).mono
    (m := [.pc, .fault, .ir, .env]) (by simp)).of_same rfl

/-- The high byte of two bytes put together. -/
@[simp] theorem highByte_wordOfBytes (hi lo : Byte) : highByte (wordOfBytes hi lo) = hi :=
  BitVec.extractLsb'_append_eq_left

/-- The low byte of two bytes put together. -/
@[simp] theorem lowByte_wordOfBytes (hi lo : Byte) : lowByte (wordOfBytes hi lo) = lo :=
  BitVec.extractLsb'_append_eq_right

/-- Settles O6: the fetched word is the two bytes put together, the lower address high. -/
theorem fetchIsBigEndian : Obligations.FetchIsBigEndian :=
  fun _ h => ⟨_, State.fetch_of_le h, highByte_wordOfBytes _ _, lowByte_wordOfBytes _ _⟩

/-- Settles O7: the step of a fetched instruction, and the frames of the two ends of a tick. -/
theorem stepRunsTheDecodedInstruction : Obligations.StepRunsTheDecodedInstruction :=
  fun s w _ h => ⟨step_of_fetches h, rfl, rfl, s.sampled_advance_unchanged w, fun t => ⟨rfl, t.endTick_unchanged⟩⟩

/-- Settles O8: the step of a fetch above 4094. -/
theorem fetchAbove4094Raises : Obligations.FetchAbove4094Raises :=
  fun s h hpc => ⟨_, step_of_fetch_fault h hpc, rfl, rfl, rfl, s.sampled_raise_endTick_unchanged _ _ _⟩

/-- Settles O9: the step of an invalid word. -/
theorem invalidWordRaises : Obligations.InvalidWordRaises :=
  fun s h hpc hd => ⟨_, step_of_invalid_word h hpc hd, rfl, rfl, rfl, s.sampled_raise_endTick_unchanged _ _ _⟩

/-- Settles O10: the step of a waiting core. -/
theorem waitingTickChangesNothing : Obligations.WaitingTickChangesNothing :=
  fun s hin hk hwait => ⟨_, step_of_waiting hin hk hwait, s.endTick_unchanged⟩

/-- Settles O11: the report of each kind. -/
theorem haltedTickStops : Obligations.HaltedTickStops := by
  intro s hin
  refine ⟨?_, ?_, ?_, ?_⟩ <;> intro hk <;> exact step_of_report hin (by simp [FaultRecord.report, hk])

/-! ### Events of the host -/

/-- A key press that ends a wait writes registers, the wait and the model's own fields alone. -/
theorem State.withInbox_endWait_unchanged (s : State) (rest : List HostEvent) (r : Nibble) (b : Byte) :
    UnchangedExcept [.regs, .wait, .env] s ((s.withInbox rest).setReg r b).endWait :=
  (((s.withInbox_unchanged rest).trans (State.setReg_unchanged _ r b)).trans (State.endWait_unchanged _)).mono (by simp)

/-- A timer tick writes the timers and the model's own fields alone. -/
theorem State.withInbox_setTimers_unchanged (s : State) (rest : List HostEvent) (a b : Byte) :
    UnchangedExcept [.dt, .st, .env] s (((s.withInbox rest).setDt a).setSt b) :=
  (((s.withInbox_unchanged rest).trans (State.setDt_unchanged _ a)).trans (State.setSt_unchanged _ b)).mono (by simp)

/-- A load writes memory and the model's own fields alone. -/
theorem State.withInbox_setMem_unchanged (s : State) (rest : List HostEvent) (m : Memory) :
    UnchangedExcept [.mem, .env] s ((s.withInbox rest).setMem m) :=
  ((s.withInbox_unchanged rest).trans (State.setMem_unchanged _ m)).mono (by simp)

/-- A key number as a byte has the value of the key number. -/
@[simp] theorem zext8_toNat (k : Nibble) : (zext8 k).toNat = k.toNat :=
  BitVec.toNat_setWidth_of_le (by decide)

/-- Settles O42: the two cases of a key press. -/
theorem keyPressEndsWait : Obligations.KeyPressEndsWait := by
  intro k rest s hin
  refine ⟨(s.withInbox rest).onKeyPress k, step_of_event hin, ?_⟩
  rcases (s.withInbox rest).onKeyPress_cases k with ⟨hdrop, he⟩ | ⟨hk, hwait, he⟩ <;> rw [he]
  · refine ⟨rfl, fun hk hwait => ?_, fun _ => s.withInbox_unchanged rest⟩
    rcases hdrop with hdrop | hdrop
    · exact absurd hk hdrop
    · exact absurd (hdrop.symm.trans hwait) nofun
  · refine ⟨rfl, fun _ _ => ⟨by simp, fun r hr => ?_, rfl, s.withInbox_endWait_unchanged rest _ _⟩, fun hdrop => ?_⟩
    · simp_all
    · rcases hdrop with hdrop | hdrop
      · exact absurd hk hdrop
      · exact absurd (hdrop.symm.trans hwait) nofun

/-- Settles O43: the two cases of a timer tick. -/
theorem timerTickDecrements : Obligations.TimerTickDecrements := by
  intro rest s hin
  refine ⟨(s.withInbox rest).onTimerTick, step_of_event hin, ?_⟩
  rcases (s.withInbox rest).onTimerTick_cases with ⟨hk, he⟩ | ⟨hk, he⟩ <;> rw [he]
  · exact ⟨rfl, fun hnone => absurd hnone hk, fun _ => s.withInbox_unchanged rest⟩
  · exact ⟨rfl, fun _ => ⟨countDown_toNat s.dt, countDown_toNat s.st, s.withInbox_setTimers_unchanged rest _ _⟩,
      fun hne => absurd hk hne⟩

/-- Executing an instruction keeps `DT`, or it is an Fx15 and `DT` is its register. -/
theorem exec_dt_cases {i : Instr} {s t : State} (h : exec i s = .next t) :
    t.dt = s.dt ∨ ∃ x : Nibble, i = .ldDtVx x ∧ t.dt = s.reg x := by
  cases exec_cases h
  case delay x hi ht => exact .inr ⟨x, hi, ht ▸ rfl⟩
  case flag hi ht => rcases ht with rfl | rfl <;> exact .inl rfl
  all_goals subst t; exact .inl rfl

/-- An event of the host never raises `DT`. -/
theorem deliver_dt_le {s t : State} {e : HostEvent} (h : s.deliver e = .next t) : t.dt.toNat ≤ s.dt.toNat := by
  rcases State.deliver_cases h with ⟨-, rfl⟩ | ⟨bytes, -, -, rfl⟩ | ⟨-, rfl⟩ | ⟨k, -, rfl⟩
  · exact Nat.zero_le _
  · rcases s.onLoad_cases bytes with ⟨-, he⟩ | ⟨-, he⟩ <;> simp [he]
  · rcases s.onTimerTick_cases with ⟨-, he⟩ | ⟨-, he⟩ <;> simp [he]
  · rcases s.onKeyPress_cases k with ⟨-, he⟩ | ⟨-, -, he⟩ <;> simp [he]

/-- Settles O44: of the ways a step goes, only an executed Fx15 can raise `DT`. -/
theorem delayTimerRisesOnlyByItsLoad : Obligations.DelayTimerRisesOnlyByItsLoad := by
  intro s t h hlt
  rcases step_cases h with ⟨e, rest, -, he⟩ | ⟨-, -, -, rfl⟩ | ⟨-, -, rfl⟩ | ⟨-, -, -, rfl⟩ | ⟨w, i, u, hfetch, hx, rfl⟩
  · exact absurd hlt (Nat.not_lt.mpr (deliver_dt_le (s := s.withInbox rest) he))
  · exact absurd hlt (lt_irrefl _)
  · exact absurd hlt (lt_irrefl _)
  · exact absurd hlt (lt_irrefl _)
  · rcases exec_dt_cases hx with hdt | ⟨x, rfl, hdt⟩
    · rw [State.endTick_dt, hdt] at hlt
      exact absurd hlt (lt_irrefl _)
    · exact ⟨w, x, hfetch, hdt⟩

/-! ### Reset and loading -/

/-- Outside the font an unlisted byte reads as 0. -/
theorem Memory.blank_eq_zero {a : Nat} (h : ¬ (0x050 ≤ a ∧ a ≤ 0x09F)) : Memory.blank a = 0 := by
  unfold Memory.blank Config.fontBase
  split
  · have hlen : fontTable.length ≤ a - 0x050 := by
      rw [show fontTable.length = 80 from rfl]
      omega
    rw [List.getD_eq_getElem?_getD, List.getElem?_eq_none hlen]
    rfl
  · rfl

/-- Settles O45: the fields of the reset state, read off. -/
theorem resetValues : Obligations.ResetValues := by
  refine ⟨fun r => ?_, rfl, rfl, by decide, rfl, fun a ha => Memory.blank_eq_zero ha, fun j => ?_, rfl, rfl, rfl,
    pixel_blankGrid, rfl, rfl⟩
  · exact Vector.getElem_replicate _
  · exact Vector.getElem_replicate _

/-- Settles O46: the event puts every field but the model's own at its reset value. -/
theorem resetFromAnyState : Obligations.ResetFromAnyState := by
  intro rest s hin
  refine ⟨_, step_of_event hin, fun p hp => ?_, rfl, rfl, rfl, rfl⟩
  cases p with
  | env => exact absurd (by simp) hp
  | _ => simp [Part.Same, State.onReset, State.reg]

/-- Bytes written in a row read back in a row. -/
theorem Memory.readList_writeList (m : Memory) (a : Nat) (bs : List Byte) :
    Memory.readList (Memory.writeList m a bs) a bs.length = bs := by
  refine List.ext_getElem (Memory.readList_length _ _ _) fun j hj hbs => ?_
  rw [Memory.readList_getElem, Memory.read_writeList_of_lt m a j bs hbs]

/-- Settles O47: after the start the event is refused; before it, the two cases of a load. -/
theorem loadCopiesProgram : Obligations.LoadCopiesProgram := by
  intro bytes rest s hin
  have hstep : step s = if s.env.started then .refused .loadAfterStart else .next ((s.withInbox rest).onLoad bytes) :=
    step_of_event hin
  refine ⟨fun hs => by rw [hstep, if_pos hs], fun hs hlen => ?_, fun hs hlen => ?_⟩
  all_goals rw [hs] at hstep
  · rcases (s.withInbox rest).onLoad_cases bytes with ⟨-, he⟩ | ⟨hgt, -⟩
    · rw [he] at hstep
      exact ⟨_, hstep, Memory.readList_writeList _ _ _, s.memExcept_writeList 0x200 bytes,
        s.withInbox_setMem_unchanged rest _⟩
    · omega
  · rcases (s.withInbox rest).onLoad_cases bytes with ⟨hle, -⟩ | ⟨-, he⟩
    · omega
    · rw [he] at hstep
      exact ⟨_, hstep, s.withInbox_unchanged rest⟩

/-! ### The end of a run -/

/-- Being at a self-jump is a fact about the record, `pc` and memory. -/
theorem State.AtSelfJump.congr {s t : State} {a : Word} (h : s.AtSelfJump a) (hfault : t.fault = s.fault)
    (hpc : t.pc = s.pc) (hmem : t.mem = s.mem) : t.AtSelfJump a := by
  rw [State.AtSelfJump, hfault, hpc, hmem]
  exact h

/-- At a self-jump the tick of a core that does not wait is the jump. -/
theorem step_of_atSelfJump {s : State} {a : Word} (h : s.AtSelfJump a) (hin : s.env.inbox = []) (hwait : s.wait = false) :
    ∃ w : Word, step s = .next ((s.sampled.advance w).setPc s.pc).endTick := by
  obtain ⟨hk, hpc, hle, nnn, htarget, hw⟩ := h
  refine ⟨encode (.jp nnn), (step_of_fetches ⟨⟨hin, hk, hwait⟩, hle, hw, decode_one_nnn nnn⟩).trans ?_⟩
  rw [exec_jp, htarget, hpc]
  rfl

/-- A jump back to where it was fetched writes `IR` and the model's own fields alone. -/
theorem State.advance_setPc_endTick_unchanged (s : State) (w : Word) :
    UnchangedExcept [.ir, .env] s ((s.sampled.advance w).setPc s.pc).endTick :=
  (((s.sampled_advance_unchanged w).trans ((State.setPc_unchanged _ s.pc).trans (State.endTick_unchanged _))).mono
    (m := [.pc, .ir, .env]) (by simp)).of_same rfl

/-- Settles O48: none of the three steps writes the record, `pc` or memory. -/
theorem selfJumpChangesNothing : Obligations.SelfJumpChangesNothing := by
  intro s a h
  have ⟨hk, _⟩ := h
  refine ⟨fun hin => ?_, fun rest hin => ⟨(s.withInbox rest).onTimerTick, step_of_event hin, ?_⟩,
    fun k rest hin => ⟨(s.withInbox rest).onKeyPress k, step_of_event hin, ?_⟩⟩
  · cases hwait : s.wait with
    | true => exact ⟨_, step_of_waiting hin hk hwait, h.congr rfl rfl rfl, s.endTick_unchanged⟩
    | false =>
      obtain ⟨w, hstep⟩ := step_of_atSelfJump h hin hwait
      exact ⟨_, hstep, h.congr rfl rfl rfl, s.advance_setPc_endTick_unchanged w⟩
  · rcases (s.withInbox rest).onTimerTick_cases with ⟨hne, -⟩ | ⟨-, he⟩
    · exact absurd hk hne
    · rw [he]
      exact ⟨h.congr rfl rfl rfl, s.withInbox_setTimers_unchanged rest _ _⟩
  · rcases (s.withInbox rest).onKeyPress_cases k with ⟨-, he⟩ | ⟨-, -, he⟩ <;> rw [he] <;> exact h.congr rfl rfl rfl

end Sys2Proof.Machine

/-! Proofs for the display (44_display.md R220 to R226, 60_exceptions.md R280): a sprite is a list of distinct pixels, toggled
one after another. -/

namespace Sys2Proof.Machine

/-! ### Toggling pixels one after another -/

/-- A pixel's column and row. -/
abbrev Place := Fin 64 × Fin 32

/-- One set sprite bit: its pixel is toggled, and the collision notes whether the pixel was set (44_display.md R221). -/
def toggleAt (acc : Grid × Bool) (p : Place) : Grid × Bool :=
  (togglePixel acc.1 p.1 p.2, acc.2 || pixel acc.1 p.1 p.2)

/-- Toggling one pixel, seen at another place. -/
theorem pixel_toggleAt_of_ne {acc : Grid × Bool} {p q : Place} (h : q ≠ p) :
    pixel (toggleAt acc p).1 q.1 q.2 = pixel acc.1 q.1 q.2 := by
  have hq : (decide (q.1 = p.1) && decide (q.2 = p.2)) = false := by
    simpa using fun hx hy => h (Prod.ext hx hy)
  rw [toggleAt, pixel_togglePixel, hq, Bool.xor_false]

/-- Toggling one pixel, seen at its place. -/
theorem pixel_toggleAt_same (acc : Grid × Bool) (p : Place) :
    pixel (toggleAt acc p).1 p.1 p.2 = !pixel acc.1 p.1 p.2 := by
  simp [toggleAt]

/-- Distinct pixels toggled one after another: each is inverted, every other pixel is kept. -/
theorem pixel_foldl_toggleAt {ps : List Place} (hps : ps.Nodup) (acc : Grid × Bool) (q : Place) :
    pixel (ps.foldl toggleAt acc).1 q.1 q.2 = (pixel acc.1 q.1 q.2 ^^ decide (q ∈ ps)) := by
  induction ps generalizing acc with
  | nil => simp
  | cons p ps ih =>
    obtain ⟨hp, hps⟩ := List.nodup_cons.mp hps
    rw [List.foldl_cons, ih hps]
    by_cases hq : q = p
    · subst hq
      simp [pixel_toggleAt_same, hp]
    · rw [pixel_toggleAt_of_ne hq]
      simp [hq]

/-- Distinct pixels toggled one after another: the collision is noted when one of them was set at the start. -/
theorem collision_foldl_toggleAt {ps : List Place} (hps : ps.Nodup) (acc : Grid × Bool) :
    (ps.foldl toggleAt acc).2 = true ↔ acc.2 = true ∨ ∃ p ∈ ps, pixel acc.1 p.1 p.2 = true := by
  induction ps generalizing acc with
  | nil => simp
  | cons p ps ih =>
    obtain ⟨hp, hps⟩ := List.nodup_cons.mp hps
    have hrest : (∃ q ∈ ps, pixel (toggleAt acc p).1 q.1 q.2 = true) ↔ ∃ q ∈ ps, pixel acc.1 q.1 q.2 = true := by
      refine exists_congr fun q => and_congr_right fun hq => ?_
      rw [pixel_toggleAt_of_ne fun h : q = p => hp (h ▸ hq)]
    rw [List.foldl_cons, ih hps, hrest, List.exists_mem_cons_iff, ← or_assoc]
    simp [toggleAt]

/-! ### The pixels of a sprite -/

/-- The pixels that the set bits of one sprite row land on (44_display.md R223). -/
def rowPlaces (x0 y0 : Byte) (row : Nat) (b : Byte) : List Place :=
  ([0, 1, 2, 3, 4, 5, 6, 7].filter (spriteBit b)).map fun col => (spriteCol x0 col, spriteRow y0 row)

/-- The pixels that the set bits of the sprite rows from `row` on land on. -/
def spritePlaces (x0 y0 : Byte) (row : Nat) : List Byte → List Place
  | [] => []
  | b :: bs => rowPlaces x0 y0 row b ++ spritePlaces x0 y0 (row + 1) bs

/-- The inner loop of R221 over any columns toggles the places of the set bits. -/
theorem foldl_drawBit (x0 y0 : Byte) (row : Nat) (b : Byte) (cols : List Nat) (acc : Grid × Bool) :
    cols.foldl (drawBit x0 y0 row b) acc =
      ((cols.filter (spriteBit b)).map fun col => (spriteCol x0 col, spriteRow y0 row)).foldl toggleAt acc := by
  induction cols generalizing acc with
  | nil => rfl
  | cons col cols ih =>
    rcases drawBit_cases x0 y0 row b acc col with ⟨hbit, he⟩ | ⟨hbit, he⟩ <;>
      simp [he, hbit, ih, toggleAt]

/-- The outer loop of R221 toggles the places of the sprite. -/
theorem drawRows_eq_foldl (x0 y0 : Byte) (row : Nat) (bs : List Byte) (acc : Grid × Bool) :
    drawRows x0 y0 row bs acc = (spritePlaces x0 y0 row bs).foldl toggleAt acc := by
  induction bs generalizing row acc with
  | nil => rfl
  | cons b bs ih =>
    rw [drawRows, ih, spritePlaces, List.foldl_append, drawRow, foldl_drawBit]
    rfl

/-- A place of a sprite row is that of a set bit in one of the 8 columns. -/
theorem mem_rowPlaces {x0 y0 : Byte} {row : Nat} {b : Byte} {p : Place} :
    p ∈ rowPlaces x0 y0 row b ↔ ∃ col < 8, spriteBit b col = true ∧ (spriteCol x0 col, spriteRow y0 row) = p := by
  have hcols : ∀ col : Nat, col ∈ [0, 1, 2, 3, 4, 5, 6, 7] ↔ col < 8 := fun col => by
    rw [show [0, 1, 2, 3, 4, 5, 6, 7] = List.range 8 from rfl, List.mem_range]
  simp only [rowPlaces, List.mem_map, List.mem_filter, hcols, and_assoc]

/-- A place of a sprite is that of a set bit in one of its rows. -/
theorem mem_spritePlaces {x0 y0 : Byte} {row : Nat} {bs : List Byte} {p : Place} :
    p ∈ spritePlaces x0 y0 row bs ↔ ∃ (j : Nat) (hj : j < bs.length), p ∈ rowPlaces x0 y0 (row + j) bs[j] := by
  induction bs generalizing row with
  | nil => simp [spritePlaces]
  | cons b bs ih =>
    rw [spritePlaces, List.mem_append, ih]
    constructor
    · rintro (h | ⟨j, hj, h⟩)
      · exact ⟨0, by simp, h⟩
      · exact ⟨j + 1, by simpa using hj, by simpa [Nat.add_assoc, Nat.add_comm 1 j] using h⟩
    · rintro ⟨_ | j, hj, h⟩
      · exact .inl h
      · exact .inr ⟨j, by simpa using hj, by simpa [Nat.add_assoc, Nat.add_comm 1 j] using h⟩

/-- The 8 columns of a row are distinct on the display, wrapped or not. -/
theorem rowPlaces_nodup (x0 y0 : Byte) (row : Nat) (b : Byte) : (rowPlaces x0 y0 row b).Nodup := by
  refine List.Nodup.map_on (fun c hc d hd h => ?_) (List.Nodup.filter _ (by decide))
  have hcol : (x0.toNat + c) % 64 = (x0.toNat + d) % 64 := congrArg (fun p : Place => p.1.val) h
  have hlt : ∀ col ∈ [0, 1, 2, 3, 4, 5, 6, 7], col < 8 := by decide
  have hc := hlt c (List.mem_of_mem_filter hc)
  have hd := hlt d (List.mem_of_mem_filter hd)
  omega

/-- Up to 32 rows of a sprite are distinct on the display, wrapped or not. -/
theorem spritePlaces_nodup (x0 y0 : Byte) (row : Nat) (bs : List Byte) (h : bs.length ≤ 32) :
    (spritePlaces x0 y0 row bs).Nodup := by
  induction bs generalizing row with
  | nil => exact List.nodup_nil
  | cons b bs ih =>
    rw [List.length_cons] at h
    refine (rowPlaces_nodup x0 y0 row b).append (ih (row + 1) (by omega)) fun p hp hq => ?_
    obtain ⟨c, -, -, rfl⟩ := mem_rowPlaces.mp hp
    obtain ⟨j, hj, hq⟩ := mem_spritePlaces.mp hq
    obtain ⟨d, -, -, hd⟩ := mem_rowPlaces.mp hq
    have hrow : (y0.toNat + (row + 1 + j)) % 32 = (y0.toNat + row) % 32 := congrArg (fun p : Place => p.2.val) hd
    omega

/-- Drawing up to 32 rows inverts the places of the sprite and keeps every other pixel (44_display.md R221, R225). -/
theorem pixel_draw (d : Grid) (x0 y0 : Byte) {rows : List Byte} (h : rows.length ≤ 32) (q : Place) :
    pixel (draw d x0 y0 rows).1 q.1 q.2 = (pixel d q.1 q.2 ^^ decide (q ∈ spritePlaces x0 y0 0 rows)) := by
  rw [draw, drawRows_eq_foldl, pixel_foldl_toggleAt (spritePlaces_nodup x0 y0 0 rows h)]

/-- Drawing up to 32 rows reports a collision when a place of the sprite was set before. -/
theorem collision_draw (d : Grid) (x0 y0 : Byte) {rows : List Byte} (h : rows.length ≤ 32) :
    (draw d x0 y0 rows).2 = true ↔ ∃ p ∈ spritePlaces x0 y0 0 rows, pixel d p.1 p.2 = true := by
  rw [draw, drawRows_eq_foldl, collision_foldl_toggleAt (spritePlaces_nodup x0 y0 0 rows h)]
  simp

/-! ### Dxyn -/

/-- The pixels that `DRW Vx, Vy, n` inverts when it executes in `s`. -/
def State.drwPlaces (s : State) (x y n : Nibble) : List Place := spritePlaces (s.reg x) (s.reg y) 0 (s.spriteBytes n)

/-- The display and the collision of `DRW Vx, Vy, n` executed in `s`. -/
def State.drwResult (s : State) (x y n : Nibble) : Grid × Bool := draw s.disp (s.reg x) (s.reg y) (s.spriteBytes n)

/-- A sprite has at most 15 rows. -/
theorem State.spriteBytes_length_le (s : State) (n : Nibble) : (s.spriteBytes n).length ≤ 32 := by
  have hn := n.isLt
  rw [State.spriteBytes, Memory.readList_length]
  omega

/-- The inverted pixels are those a set sprite bit covers. -/
theorem State.mem_drwPlaces {s : State} {x y n : Nibble} {px : Fin 64} {py : Fin 32} :
    (px, py) ∈ s.drwPlaces x y n ↔ SpriteCovers s x y n px py := by
  simp only [State.drwPlaces, mem_spritePlaces, mem_rowPlaces, State.spriteBytes, Memory.readList_length,
    Memory.readList_getElem, spriteBit, Prod.mk.injEq, Fin.ext_iff, spriteCol, spriteRow, State.ea, SpriteCovers,
    Nat.zero_add, Nat.add_zero]
  constructor
  · rintro ⟨row, hrow, col, hcol, hbit, hpx, hpy⟩
    exact ⟨row, col, hrow, hcol, hpx, hpy, hbit⟩
  · rintro ⟨row, col, hrow, hcol, hpx, hpy, hbit⟩
    exact ⟨row, hrow, col, hcol, hbit, hpx, hpy⟩

/-- A pixel after the sprite is drawn. -/
theorem State.pixel_drwResult (s : State) (x y n : Nibble) (px : Fin 64) (py : Fin 32) :
    pixel (s.drwResult x y n).1 px py = (pixel s.disp px py ^^ decide ((px, py) ∈ s.drwPlaces x y n)) :=
  pixel_draw s.disp _ _ (s.spriteBytes_length_le n) (px, py)

/-- The collision: some covered pixel was set. -/
theorem State.collision_drwResult (s : State) (x y n : Nibble) : (s.drwResult x y n).2 = true ↔
    ∃ (px : Fin 64) (py : Fin 32), (px, py) ∈ s.drwPlaces x y n ∧ pixel s.disp px py = true := by
  rw [← Prod.exists']
  exact collision_draw s.disp _ _ (s.spriteBytes_length_le n)

/-- The collision, said by the pixels: some pixel went from 1 to 0. -/
theorem State.collision_drwResult_iff_erased (s : State) (x y n : Nibble) : (s.drwResult x y n).2 = true ↔
    ∃ (px : Fin 64) (py : Fin 32), pixel s.disp px py = true ∧ pixel (s.drwResult x y n).1 px py = false := by
  rw [s.collision_drwResult]
  refine exists_congr fun px => exists_congr fun py => ?_
  rw [s.pixel_drwResult]
  by_cases hset : pixel s.disp px py = true <;> simp [hset]

/-- Dxyn in bounds answers the state with the sprite drawn. -/
theorem exec_drw_of_inBounds {s : State} (x y n : Nibble) (h : n.toNat = 0 ∨ s.i.toNat + n.toNat ≤ 4096) :
    exec (.drw x y n) s = .next (s.drawn (s.drwResult x y n)) :=
  State.access_of_inBounds _ h

/-- Drawing a sprite writes the flag register alone of the registers. -/
theorem State.drawn_regsExcept (s : State) (r : Grid × Bool) : RegsExcept [0xF] s (s.drawn r) := by
  intro q hq
  rw [s.drawn_reg, if_neg (List.ne_of_not_mem_cons hq)]

/-- Settles O37: in bounds the instruction is one drawing of the sprite. -/
theorem drawXorsSprite : Obligations.DrawXorsSprite := by
  refine fun x y n s => ⟨decode_D_xyn x y n, fun h => ⟨_, exec_drw_of_inBounds x y n (by omega), fun px py => ⟨?_, ?_⟩,
    ?_, ?_, s.drawn_regsExcept _, (s.drawn_unchanged _).mono (by simp)⟩⟩
  · intro hcov
    rw [State.drawn_disp, s.pixel_drwResult, decide_eq_true (State.mem_drwPlaces.mpr hcov), Bool.xor_true]
  · intro hcov
    rw [State.drawn_disp, s.pixel_drwResult, decide_eq_false (mt State.mem_drwPlaces.mp hcov), Bool.xor_false]
  · intro herased
    rw [State.drawn_reg, if_pos rfl, (s.collision_drwResult_iff_erased x y n).mpr herased]
    rfl
  · intro hkept
    have hnone : (s.drwResult x y n).2 = false := by
      rw [Bool.eq_false_iff]
      intro hsome
      obtain ⟨px, py, hset, herased⟩ := (s.collision_drwResult_iff_erased x y n).mp hsome
      exact absurd ((hkept px py hset).symm.trans herased) nofun
    rw [State.drawn_reg, if_pos rfl, hnone]
    rfl

/-- A draw from registers other than F leaves the next draw the same pixels. -/
theorem State.drwPlaces_drawn (s : State) {x y : Nibble} (n : Nibble) (r : Grid × Bool) (hx : x ≠ 0xF) (hy : y ≠ 0xF) :
    (s.drawn r).drwPlaces x y n = s.drwPlaces x y n := by
  rw [State.drwPlaces, State.drawn_reg, State.drawn_reg, if_neg hx, if_neg hy]
  rfl

/-- Settles O38: the second draw inverts the same pixels again, and finds set what the first one has set. -/
theorem drawTwiceErases : Obligations.DrawTwiceErases := by
  intro x y n s hx hy hin
  have hplaces := s.drwPlaces_drawn n (s.drwResult x y n) hx hy
  refine ⟨_, _, exec_drw_of_inBounds x y n (.inr hin), exec_drw_of_inBounds x y n (.inr hin), fun px py => ?_,
    fun hblank => ⟨?_, ?_⟩⟩
  · rw [State.drawn_disp, State.pixel_drwResult, hplaces, State.drawn_disp, State.pixel_drwResult, Bool.xor_assoc,
      Bool.xor_self, Bool.xor_false]
  · have hnone : (s.drwResult x y n).2 = false := by
      rw [Bool.eq_false_iff, ne_eq, s.collision_drwResult]
      rintro ⟨px, py, -, hset⟩
      exact absurd ((hblank px py).symm.trans hset) nofun
    rw [State.drawn_reg, if_pos rfl, hnone]
    rfl
  · rintro ⟨px, py, hcov⟩
    have hmem := State.mem_drwPlaces.mpr hcov
    have hset : pixel (s.drwResult x y n).1 px py = true := by
      rw [State.pixel_drwResult, hblank, decide_eq_true hmem]
      rfl
    have hcollides : ((s.drawn (s.drwResult x y n)).drwResult x y n).2 = true := by
      rw [State.collision_drwResult, hplaces]
      exact ⟨px, py, hmem, hset⟩
    rw [State.drawn_reg, if_pos rfl, hcollides]
    rfl

/-! ### The display output -/

/-- The rows of a grid put together into one number, row 0 lowest (60_exceptions.md R280). -/
def packRows (rows : List (BitVec 64)) : Nat := rows.foldr (fun row rest => row.toNat + 2 ^ 64 * rest) 0

/-- Bit `64*y + x` of the packed rows is bit `x` of row `y`. -/
theorem testBit_packRows (rows : List (BitVec 64)) (x y : Nat) (hx : x < 64) (hy : y < rows.length) :
    (packRows rows).testBit (64 * y + x) = rows[y].getLsbD x := by
  induction rows generalizing y with
  | nil => exact absurd hy (Nat.not_lt_zero y)
  | cons row rows ih =>
    rw [packRows, List.foldr_cons, Nat.add_comm row.toNat, Nat.testBit_two_pow_mul_add _ row.isLt]
    cases y with
    | zero => rw [if_pos (by omega), Nat.mul_zero, Nat.zero_add]; rfl
    | succ y =>
      have hshift : 64 * (y + 1) + x - 64 = 64 * y + x := by omega
      rw [if_neg (by omega), hshift]
      exact ih y (Nat.lt_of_succ_lt_succ hy)

/-- Settles O39: the output is the packed rows, and each bit of it is below 64 * 32. -/
theorem displayOutputIsRowMajor : Obligations.DisplayOutputIsRowMajor := by
  intro s px py
  have hpx := px.isLt
  have hpy := py.isLt
  have hlen : py.val < s.disp.toList.length := by rw [Vector.length_toList]; exact hpy
  have hbit := testBit_packRows s.disp.toList px.val py.val hpx hlen
  rw [Vector.getElem_toList] at hbit
  rw [State.displayOut, BitVec.getLsbD_ofNat, decide_eq_true (by omega), Bool.true_and]
  exact hbit

end Sys2Proof.Machine
